-- ==== Sys2Proof/Word.lean ====
section
/-! DEFINITION. The widths of the block (rule R7, R8): a nibble is 4 bits, a byte (a V8 block) 8, a register word 16, and KEY 48. -/

namespace Sys2Proof

/-- A nibble: "a 4-bit unit of data, the atomic substitution unit" (R9). -/
abbrev Nibble := BitVec 4

/-- A V8 block, and one of the words w0..w5 of the key schedule (R57). -/
abbrev Byte := BitVec 8

/-- A register of the host interface, and a V16 block (R7, R11). -/
abbrev Word := BitVec 16

/-- The KEY register (R12). -/
abbrev Key := BitVec 48

/-- A host word address, 0x0-0xF (R22). -/
abbrev Addr := BitVec 4

/-- `zext_16` of a byte (R8). -/
abbrev zext16 (b : Byte) : Word := BitVec.setWidth 16 b

/-- `x[7:0]`, the low byte of a word (R8). -/
abbrev lowByte (x : Word) : Byte := BitVec.setWidth 8 x

end Sys2Proof
end

