-- ==== Sys2Proof/Syntax.lean ====
section
/-! DEFINITION. The block's instruction set: one constructor for each row of the command table (rule R38), each with its variant field V. -/

namespace Sys2Proof

/-- The two cipher variants (R3), selected by the V field: V = 0 is V16, V = 1 is V8. -/
inductive Variant where
  | v16
  | v8
deriving DecidableEq, Repr

/-- A command, the block's equivalent of an instruction (R9, R38). -/
inductive Instr where
  | enc (v : Variant)
  | dec (v : Variant)
  | denc (v : Variant)
  | ddec (v : Variant)
  | tenc2 (v : Variant)
  | tdec2 (v : Variant)
  | tenc3 (v : Variant)
  | tdec3 (v : Variant)
  | cbcenc (v : Variant)
  | cbcdec (v : Variant)
  | kexp (v : Variant)
deriving DecidableEq, Repr

/-- The variant a command names in its V field (R35: "Every OP accepts both values"). -/
def Instr.variant : Instr → Variant
  | .enc v => v
  | .dec v => v
  | .denc v => v
  | .ddec v => v
  | .tenc2 v => v
  | .tdec2 v => v
  | .tenc3 v => v
  | .tdec3 v => v
  | .cbcenc v => v
  | .cbcdec v => v
  | .kexp v => v

end Sys2Proof
end

