-- ==== Sys2Proof/WellFormed.lean ====
section
/-! DEFINITION. Which capability sets a cipher may have (rule R3, N3), and the well-formedness of a command.

The source asks for one cipher "parameterized by a small capability set {blockWidth, hasDiffusion, hasNontrivialPermutation}, selected by a
variant tag". The spec admits exactly two sets, so a command, whose field is the tag, is well formed by its type; the checks below say which
sets are refused. -/

namespace Sys2Proof

/-- The capability set of R3. -/
structure Capabilities where
  blockWidth : Nat
  hasDiffusion : Bool
  hasNontrivialPermutation : Bool
deriving DecidableEq, Repr

/-- The table of R3, one row a variant. -/
def Variant.capabilities : Variant → Capabilities
  | .v16 => { blockWidth := 16, hasDiffusion := true, hasNontrivialPermutation := true }
  | .v8 => { blockWidth := 8, hasDiffusion := false, hasNontrivialPermutation := false }

/-- The block width is one of the two the spec has. -/
def Capabilities.widthOk (c : Capabilities) : Bool := c.blockWidth == 16 || c.blockWidth == 8

/-- Diffusion stands in the 16-bit variant and only there. -/
def Capabilities.diffusionOk (c : Capabilities) : Bool := c.hasDiffusion == (c.blockWidth == 16)

/-- The permutation is nontrivial in the 16-bit variant and only there. -/
def Capabilities.permutationOk (c : Capabilities) : Bool := c.hasNontrivialPermutation == (c.blockWidth == 16)

/-- "No other combination is admitted" (R3). -/
def Capabilities.wf (c : Capabilities) : Bool := c.widthOk && c.diffusionOk && c.permutationOk

/-- A command is well formed when its variant's capability set is admitted. -/
def Instr.wf (i : Instr) : Bool := i.variant.capabilities.wf

end Sys2Proof
end

