-- ==== Sys2Proof/Decode.lean ====
section
/-! DEFINITION. The command decoder, total on 16-bit words, and the encoder (rules R34 to R40). -/

namespace Sys2Proof

/-- Field OP, bits 3:0 (R34). -/
def fieldOp (w : Word) : BitVec 4 := w.extractLsb' 0 4

/-- Field CM, bits 5:4 (R34). -/
def fieldCm (w : Word) : BitVec 2 := w.extractLsb' 4 2

/-- Field V, bit 6 (R34, R35). -/
def fieldV (w : Word) : Variant := if w.getLsbD 6 then .v8 else .v16

/-- Field RSV, bits 15:7 (R34). -/
def fieldRsv (w : Word) : BitVec 9 := w.extractLsb' 7 9

/-- Why a word is illegal: the four cases of R40. -/
inductive DecodeError where
  /-- R40 case 1: OP is 0x0 or in 0x8-0xF. -/
  | reservedOp
  /-- R40 case 2: OP is 0x3 or 0x4 and CM = 0b11. -/
  | reservedCascadeMode
  /-- R40 case 3: OP is neither 0x3 nor 0x4 and CM is not 0b00. -/
  | modeOnPlainOp
  /-- R40 case 4: RSV is not 0. -/
  | reservedBits
deriving DecidableEq, Repr

/-- R40, read as one predicate on the word. -/
def wordIllegal (w : Word) : Bool :=
  (fieldOp w == 0x0#4 || (0x8#4).ule (fieldOp w))
  || ((fieldOp w == 0x3#4 || fieldOp w == 0x4#4) && fieldCm w == 0b11#2)
  || ((fieldOp w != 0x3#4 && fieldOp w != 0x4#4) && fieldCm w != 0b00#2)
  || fieldRsv w != 0#9

/-- The operations whose CM must be 0b00 (R36). -/
def decodePlain (op : BitVec 4) (v : Variant) : Except DecodeError Instr :=
  match op.toNat with
  | 0x1 => .ok (.enc v)
  | 0x2 => .ok (.dec v)
  | 0x5 => .ok (.cbcenc v)
  | 0x6 => .ok (.cbcdec v)
  | 0x7 => .ok (.kexp v)
  | _ => .error .reservedOp

/-- OP = 0x3: the cascade encryptions by mode tag (R37). -/
def decodeCascadeEnc (cm : BitVec 2) (v : Variant) : Except DecodeError Instr :=
  match cm.toNat with
  | 0b00 => .ok (.denc v)
  | 0b01 => .ok (.tenc2 v)
  | 0b10 => .ok (.tenc3 v)
  | _ => .error .reservedCascadeMode

/-- OP = 0x4: the cascade decryptions by mode tag (R37). -/
def decodeCascadeDec (cm : BitVec 2) (v : Variant) : Except DecodeError Instr :=
  match cm.toNat with
  | 0b00 => .ok (.ddec v)
  | 0b01 => .ok (.tdec2 v)
  | 0b10 => .ok (.tdec3 v)
  | _ => .error .reservedCascadeMode

/-- The decoder: "a decoder reads the four fields of every word the same way" (R34). The name of the error is the first of R40's cases
4, 2, 1, 3 that holds; the block itself reports only ILLEGAL (R102). -/
def decode (w : Word) : Except DecodeError Instr :=
  if fieldRsv w ≠ 0#9 then .error .reservedBits
  else if fieldOp w = 0x3#4 then decodeCascadeEnc (fieldCm w) (fieldV w)
  else if fieldOp w = 0x4#4 then decodeCascadeDec (fieldCm w) (fieldV w)
  else
    match decodePlain (fieldOp w) (fieldV w) with
    | .error e => .error e
    | .ok i => if fieldCm w ≠ 0b00#2 then .error .modeOnPlainOp else .ok i

/-! The encoder, from R38's table. -/

/-- The bit of the V field (R35). -/
def Variant.bit : Variant → BitVec 1
  | .v16 => 0#1
  | .v8 => 1#1

/-- The word of R34's format with RSV = 0. -/
def commandWord (v : Variant) (cm : BitVec 2) (op : BitVec 4) : Word := 0#9 ++ v.bit ++ cm ++ op

/-- The word of a command (R38, columns OP and CM). -/
def encode : Instr → Word
  | .enc v => commandWord v 0b00#2 0x1#4
  | .dec v => commandWord v 0b00#2 0x2#4
  | .denc v => commandWord v 0b00#2 0x3#4
  | .ddec v => commandWord v 0b00#2 0x4#4
  | .tenc2 v => commandWord v 0b01#2 0x3#4
  | .tdec2 v => commandWord v 0b01#2 0x4#4
  | .tenc3 v => commandWord v 0b10#2 0x3#4
  | .tdec3 v => commandWord v 0b10#2 0x4#4
  | .cbcenc v => commandWord v 0b00#2 0x5#4
  | .cbcdec v => commandWord v 0b00#2 0x6#4
  | .kexp v => commandWord v 0b00#2 0x7#4

/-- The command word that `nbits` bits of a table row's number stand for; the bits above are 0. -/
def tableWord (nbits w : Nat) : Word := BitVec.ofNat 16 (w % 2 ^ nbits)

/-- The command the decoder reads from a word numbered as spec/opcode_table.json numbers it: a command is one 16-bit word (R34), so a
longer one is refused. -/
def decodeTableWord (nbits w : Nat) : Option Instr :=
  if nbits ≤ 16 then
    match decode (tableWord nbits w) with
    | .ok i => some i
    | .error _ => none
  else none

end Sys2Proof
end

