-- ==== Sys2Proof/Machine/State.lean ====
section
/-! DEFINITION. The architectural state of the block (10_state.md), the events that act on it (rule R10), the state after reset (R111), and the
reasons a step can stop. -/

namespace Sys2Proof.Machine

/-- STATUS.ERR (R16, R100). Code 3 is "never produced", so it has no constructor. -/
inductive ErrCode where
  /-- 0: the last command completed, or no command since reset or clear. -/
  | ok
  /-- 1: the command word was illegal (R40). -/
  | illegal
  /-- 2: KEY had a nonzero bit outside the command's key bits (R101). -/
  | keyWidth
deriving DecidableEq, Repr

/-- The sequencer's phase (R18), "which stands where a program counter would stand". -/
inductive Phase where
  | idle
  | start
  | run (i : Fin 8)
  | sdone
deriving DecidableEq, Repr

/-- The host-visible registers (R11). -/
inductive Reg where
  | cmd
  | status
  | din
  | dout
  | key0
  | key1
  | key2
  | chain
  | rk0
  | rk1
  | rk2
deriving DecidableEq, Repr

/-- The accesses that do not exist at the interface (R24, U8). -/
inductive BadAccess where
  | narrower
  | wider
  | misaligned
  | outsideSpace
deriving DecidableEq, Repr

/-- One event of a run (R10): each is atomic, and they occur one at a time (R106). -/
inductive Event where
  /-- `HostRead(a)` (R93). -/
  | read (a : Addr)
  /-- `HostWrite(a, v)` (R94). -/
  | write (a : Addr) (v : Word)
  /-- The host's POLL loop (R43): reads STATUS until BUSY is 0. -/
  | poll
  /-- One sequencer step (R64). -/
  | sequencer
  /-- Reset (R111). -/
  | reset
  /-- A bus access the interface does not have (R24). -/
  | badAccess (k : BadAccess)
deriving DecidableEq, Repr

/-- The state. The first sixteen fields are the block's (10_state.md); `script` and `readLog` are the model's own and stand for the world
outside the block (notes/assumptions/1.md and 2.md). STATUS.BUSY is not stored: it is 1 exactly when `phase` is not IDLE (R18). -/
structure State where
  /-- DIN (R13). -/
  din : Word
  /-- DOUT (R13). -/
  dout : Word
  /-- KEY, seen through KEY0, KEY1, KEY2 (R12). -/
  key : Key
  /-- CHAIN (R14). -/
  chain : Word
  /-- RK0 (R15). -/
  rk0 : Word
  /-- RK1 (R15). -/
  rk1 : Word
  /-- RK2 (R15). -/
  rk2 : Word
  /-- STATUS.DONE (R16). -/
  done : Bool
  /-- STATUS.ERR (R16). -/
  err : ErrCode
  /-- STATUS.WOVR (R16). -/
  wovr : Bool
  /-- ST, the working state of the cipher (R17). -/
  st : Word
  /-- The sequencer's phase (R18). -/
  phase : Phase
  /-- The index of the current stage in the stage plan (R18). -/
  stage : Fin 3
  /-- OPL, the OP field of the accepted command (R18). -/
  opl : BitVec 4
  /-- CML, its CM field (R18). -/
  cml : BitVec 2
  /-- VL, its V field: 0 is V16, 1 is V8 (R18). -/
  vl : Variant
  /-- The events still to come, in the order in which they occur. -/
  script : List Event
  /-- What host reads have returned, newest first, each with its address. -/
  readLog : List (Addr × Word)
deriving DecidableEq, Repr

/-- The state right after reset (R111): every register 0, the phase IDLE; nothing scripted and nothing read. -/
def State.reset : State where
  din := 0x0000#16
  dout := 0x0000#16
  key := 0#48
  chain := 0x0000#16
  rk0 := 0x0000#16
  rk1 := 0x0000#16
  rk2 := 0x0000#16
  done := false
  err := .ok
  wovr := false
  st := 0x0000#16
  phase := .idle
  stage := 0
  opl := 0x0#4
  cml := 0b00#2
  vl := .v16
  script := []
  readLog := []

/-- Why the machine stops with a fault. -/
inductive Fault where
  /-- Raised by a sequencer step in a control state for which the spec gives no transition: OPL, CML and `stage` name no stage of a plan, or
  `phase` is RUN(i) with no round step i. No run reaches such a state (DEDUCED, notes/assumptions/5.md). Safe. -/
  | noTransition
deriving DecidableEq, Repr

/-- Why the machine refuses a step. -/
inductive Refusal where
  /-- Raised by an arm of `exec` that has no meaning yet, under the row's mnemonic; no arm does. Safe. -/
  | notModelled (mnemonic : String)
  /-- Raised by `step` on an access the interface does not have: "such an access has no defined effect, and a model must refuse it" (R24).
  Safe. -/
  | noSuchAccess (k : BadAccess)
deriving DecidableEq, Repr

/-- The outcomes of a step. -/
abbrev Result := Host.Outcome State Fault Refusal

end Sys2Proof.Machine
end

