-- ==== Sys2Proof/Machine/Flags.lean ====
section
/-! DEFINITION. The STATUS register (rules R16, R93, R95, R100). The block has no condition codes: these are all its flags (R16). -/

namespace Sys2Proof.Machine

/-- STATUS.BUSY "is 1 exactly when `phase` is not `IDLE`" (R18). -/
def State.busy (s : State) : Bool := s.phase != .idle

/-- The code of STATUS.ERR (R100). -/
def ErrCode.code : ErrCode → BitVec 2
  | .ok => 0#2
  | .illegal => 1#2
  | .keyWidth => 2#2

/-- A read of STATUS: `zext_16(WOVR || ERR[1:0] || DONE || BUSY)` (R93). -/
def State.statusWord (s : State) : Word :=
  0#11 ++ BitVec.ofBool s.wovr ++ s.err.code ++ BitVec.ofBool s.done ++ BitVec.ofBool s.busy

/-- Writing 1 to bit 1 clears DONE and ERR (R95, R108). -/
def State.clearDone (s : State) : State := { s with done := false, err := .ok }

/-- Writing 1 to bit 4 clears WOVR (R95, R108). -/
def State.clearWovr (s : State) : State := { s with wovr := false }

/-- `HostWrite(0x1, v)` (R95): the return from an exceptional event (R108). -/
def State.statusWrite (s : State) (v : Word) : State :=
  let s' := if v.getLsbD 1 then s.clearDone else s
  if v.getLsbD 4 then s'.clearWovr else s'

end Sys2Proof.Machine
end

