-- ==== Sys2Proof/Machine/Primitives.lean ====
section
/-! DEFINITION. The combinational units of the datapath (40_primitives.md, rules R44 to R58), in the spec's names. -/

namespace Sys2Proof.Machine

/-! ## State layout (R44) -/

/-- The four nibbles of a V16 block, most significant first (R44). -/
structure Nibbles4 where
  s0 : Nibble
  s1 : Nibble
  s2 : Nibble
  s3 : Nibble
deriving DecidableEq, Repr

/-- The two nibbles of a V8 block, most significant first (R44). -/
structure Nibbles2 where
  s0 : Nibble
  s1 : Nibble
deriving DecidableEq, Repr

/-- `decode_16` (R44). -/
def decode16 (x : Word) : Nibbles4 where
  s0 := x.extractLsb' 12 4
  s1 := x.extractLsb' 8 4
  s2 := x.extractLsb' 4 4
  s3 := x.extractLsb' 0 4

/-- `decode_8` (R44). -/
def decode8 (x : Byte) : Nibbles2 where
  s0 := x.extractLsb' 4 4
  s1 := x.extractLsb' 0 4

/-- `pack` of four nibbles (R44). -/
def pack16 (n : Nibbles4) : Word := n.s0 ++ n.s1 ++ n.s2 ++ n.s3

/-- `pack` of two nibbles (R44). -/
def pack8 (n : Nibbles2) : Byte := n.s0 ++ n.s1

/-! ## Substitution ROMs (R45 to R48) -/

/-- ROM SBOX (R45; the table wins over the source's prose, C2). -/
def sboxRom : Vector Nibble 16 :=
  #v[0x9, 0x4, 0xA, 0xB, 0xD, 0x1, 0x8, 0x5, 0x6, 0x2, 0x0, 0x3, 0xC, 0xE, 0xF, 0x7]

/-- ROM ISBOX (R46). -/
def isboxRom : Vector Nibble 16 :=
  #v[0xA, 0x5, 0x9, 0xB, 0x1, 0x7, 0x8, 0xF, 0x6, 0x0, 0x2, 0x3, 0xC, 0x4, 0xD, 0xE]

/-- `SBOX[x]` (R45). -/
def sbox (x : Nibble) : Nibble := sboxRom[x.toNat]'x.isLt

/-- `ISBOX[y]` (R46). -/
def isbox (y : Nibble) : Nibble := isboxRom[y.toNat]'y.isLt

/-- `SubNib_16` (R47). -/
def subNib16 (x : Word) : Word :=
  let n := decode16 x
  pack16 ⟨sbox n.s0, sbox n.s1, sbox n.s2, sbox n.s3⟩

/-- `SubNib_8` (R47). -/
def subNib8 (x : Byte) : Byte :=
  let n := decode8 x
  pack8 ⟨sbox n.s0, sbox n.s1⟩

/-- `InvSubNib_16` (R48). -/
def invSubNib16 (x : Word) : Word :=
  let n := decode16 x
  pack16 ⟨isbox n.s0, isbox n.s1, isbox n.s2, isbox n.s3⟩

/-- `InvSubNib_8` (R48). -/
def invSubNib8 (x : Byte) : Byte :=
  let n := decode8 x
  pack8 ⟨isbox n.s0, isbox n.s1⟩

/-! ## GF(2^4) multiplier (R49) -/

/-- One turn of R49's loop is one level of the recursion: `a`, `b` and the running sum `p`. -/
def gmulLoop : Nat → Nibble → Nibble → Nibble → Nibble
  | 0, _, _, p => p
  | n + 1, a, b, p =>
    gmulLoop n
      (if a.getLsbD 3 then (a <<< 1) ^^^ 0b0011#4 else a <<< 1)
      (b >>> 1)
      (if b.getLsbD 0 then p ^^^ a else p)

/-- `a ⊗ b`, multiplication in GF(2^4) modulo x^4 + x + 1 (R49). -/
def gmul (a b : Nibble) : Nibble := gmulLoop 4 a b 0x0#4

/-! ## Permutation (R51) -/

/-- `Perm_16`: swaps the last two nibbles (R51). -/
def perm16 (x : Word) : Word :=
  let n := decode16 x
  pack16 ⟨n.s0, n.s1, n.s3, n.s2⟩

/-- `Perm_8`: the identity (R51). -/
def perm8 (x : Byte) : Byte := x

/-! ## Diffusion (R52, R53) -/

/-- `Mix` (R52), V16 only. -/
def mix (x : Word) : Word :=
  let n := decode16 x
  pack16 ⟨n.s0 ^^^ gmul 0x4#4 n.s2, n.s1 ^^^ gmul 0x4#4 n.s3, n.s2 ^^^ gmul 0x4#4 n.s0, n.s3 ^^^ gmul 0x4#4 n.s1⟩

/-- `InvMix` (R53; decryption uses it and not `Mix`, C1), V16 only. -/
def invMix (x : Word) : Word :=
  let n := decode16 x
  pack16 ⟨gmul 0x9#4 n.s0 ^^^ gmul 0x2#4 n.s2, gmul 0x9#4 n.s1 ^^^ gmul 0x2#4 n.s3,
    gmul 0x2#4 n.s0 ^^^ gmul 0x9#4 n.s2, gmul 0x2#4 n.s1 ^^^ gmul 0x9#4 n.s3⟩

/-! ## Key mixing (R54) -/

/-- `KeyMix_16` (R54). -/
def keyMix16 (x rk : Word) : Word := x ^^^ rk

/-- `KeyMix_8` (R54). -/
def keyMix8 (x rk : Byte) : Byte := x ^^^ rk

/-! ## Key schedule (R55 to R58) -/

/-- Three round keys of `w` bits (R15). -/
structure Schedule (w : Nat) where
  rk0 : BitVec w
  rk1 : BitVec w
  rk2 : BitVec w
deriving DecidableEq, Repr

/-- `SubstituteByte` (R55). -/
def substituteByte (b : Byte) : Byte :=
  BitVec.setWidth 8 (sbox (b.extractLsb' 4 4)) <<< 4 ||| BitVec.setWidth 8 (sbox (b.extractLsb' 0 4))

/-- RCON1 (R56). -/
def rcon1 : Byte := 0x80#8

/-- RCON2 (R56). -/
def rcon2 : Byte := 0x30#8

/-- `expand_16` (R57): no nibble rotation before SubstituteByte (N5). -/
def expand16 (k : Word) : Schedule 16 :=
  let w0 : Byte := k.extractLsb' 8 8
  let w1 : Byte := k.extractLsb' 0 8
  let w2 := w0 ^^^ rcon1 ^^^ substituteByte w1
  let w3 := w2 ^^^ w1
  let w4 := w2 ^^^ rcon2 ^^^ substituteByte w3
  let w5 := w4 ^^^ w3
  { rk0 := w0 ++ w1, rk1 := w2 ++ w3, rk2 := w4 ++ w5 }

/-- `expand_8` (R58). -/
def expand8 (k : Word) : Schedule 8 :=
  let w0 : Byte := k.extractLsb' 8 8
  let w1 : Byte := k.extractLsb' 0 8
  let w2 := w0 ^^^ rcon1 ^^^ substituteByte w1
  { rk0 := w0, rk1 := w1, rk2 := w2 }

end Sys2Proof.Machine
end

