-- ==== Sys2Proof/Machine/Operands.lean ====
section
/-! DEFINITION. The operands of a command: the register map (R11), masking to the variant's width (R13, R39), the windows and subkeys of KEY
(R12, R74), the key bits a command may use (R101), and the stage plans (R65, R66, R75, R85). -/

namespace Sys2Proof.Machine

/-! ## The register map -/

/-- The word address of a register (R11). -/
def Reg.addr : Reg → Addr
  | .cmd => 0x0#4
  | .status => 0x1#4
  | .din => 0x2#4
  | .dout => 0x3#4
  | .key0 => 0x4#4
  | .key1 => 0x5#4
  | .key2 => 0x6#4
  | .chain => 0x7#4
  | .rk0 => 0x8#4
  | .rk1 => 0x9#4
  | .rk2 => 0xA#4

/-- The register at a word address; `none` at the reserved addresses 0xB-0xF (R11, R27). -/
def Reg.ofAddr (a : Addr) : Option Reg :=
  match a.toNat with
  | 0x0 => some .cmd
  | 0x1 => some .status
  | 0x2 => some .din
  | 0x3 => some .dout
  | 0x4 => some .key0
  | 0x5 => some .key1
  | 0x6 => some .key2
  | 0x7 => some .chain
  | 0x8 => some .rk0
  | 0x9 => some .rk1
  | 0xA => some .rk2
  | _ => none

/-! ## Blocks -/

/-- `zext_16(x[N-1:0])`: a word masked to the variant's block width (R13, R39). -/
def maskN (v : Variant) (x : Word) : Word :=
  match v with
  | .v16 => x
  | .v8 => zext16 (lowByte x)

/-! ## KEY -/

/-- KEY[15:0], the window KEY0 (R12). -/
def keyLow (k : Key) : Word := k.extractLsb' 0 16

/-- KEY[31:16], the window KEY1 (R12). -/
def keyMid (k : Key) : Word := k.extractLsb' 16 16

/-- KEY[47:32], the window KEY2 (R12). -/
def keyHigh (k : Key) : Word := k.extractLsb' 32 16

/-- KEY from its three windows, KEY2 the most significant (R12, R23). -/
def keyOfWindows (k2 k1 k0 : Word) : Key := k2 ++ k1 ++ k0

/-- A write to KEY0 "changes only its 16 bits" (R12). -/
def setKey0 (k : Key) (v : Word) : Key := keyOfWindows (keyHigh k) (keyMid k) v

/-- A write to KEY1 (R12). -/
def setKey1 (k : Key) (v : Word) : Key := keyOfWindows (keyHigh k) v (keyLow k)

/-- A write to KEY2 (R12). -/
def setKey2 (k : Key) (v : Word) : Key := keyOfWindows v (keyMid k) (keyLow k)

/-- How many low bits of KEY a command uses (R38, column "key bits"). -/
inductive KeyBits where
  | k16
  | k32
  | k48
deriving DecidableEq, Repr

/-- KEY has a nonzero bit outside the command's key bits (R101). -/
def keyTooWide (b : KeyBits) (k : Key) : Bool :=
  match b with
  | .k16 => k.extractLsb' 16 32 != 0#32
  | .k32 => k.extractLsb' 32 16 != 0#16
  | .k48 => false

/-- A key schedule as it stands in RK0-RK2, each V8 key zero-extended (R58, R67). -/
def expand (v : Variant) (k : Word) : Schedule 16 :=
  match v with
  | .v16 => expand16 k
  | .v8 =>
    let s := expand8 k
    { rk0 := zext16 s.rk0, rk1 := zext16 s.rk1, rk2 := zext16 s.rk2 }

/-! ## Stage plans -/

/-- The direction of a stage, E or D (R65). -/
inductive Dir where
  | encrypt
  | decrypt
deriving DecidableEq, Repr

/-- One stage of a plan (R65); KEXP's stage has no direction (R66). -/
structure Stage where
  dir : Option Dir
  subkey : Word
deriving DecidableEq, Repr

/-- `PLAN(OP, CM)` over the value of KEY (R66, R75, R85, subkeys R74). An OP and CM of no command have no plan: the empty list. -/
def plan (op : BitVec 4) (cm : BitVec 2) (k : Key) : List Stage :=
  match op.toNat, cm.toNat with
  | 0x1, 0b00 => [⟨some .encrypt, keyLow k⟩]
  | 0x2, 0b00 => [⟨some .decrypt, keyLow k⟩]
  | 0x3, 0b00 => [⟨some .encrypt, keyMid k⟩, ⟨some .encrypt, keyLow k⟩]
  | 0x4, 0b00 => [⟨some .decrypt, keyLow k⟩, ⟨some .decrypt, keyMid k⟩]
  | 0x3, 0b01 => [⟨some .encrypt, keyMid k⟩, ⟨some .decrypt, keyLow k⟩, ⟨some .encrypt, keyMid k⟩]
  | 0x4, 0b01 => [⟨some .decrypt, keyMid k⟩, ⟨some .encrypt, keyLow k⟩, ⟨some .decrypt, keyMid k⟩]
  | 0x3, 0b10 => [⟨some .encrypt, keyHigh k⟩, ⟨some .decrypt, keyMid k⟩, ⟨some .encrypt, keyLow k⟩]
  | 0x4, 0b10 => [⟨some .decrypt, keyLow k⟩, ⟨some .encrypt, keyMid k⟩, ⟨some .decrypt, keyHigh k⟩]
  | 0x5, 0b00 => [⟨some .encrypt, keyLow k⟩]
  | 0x6, 0b00 => [⟨some .decrypt, keyLow k⟩]
  | 0x7, 0b00 => [⟨none, keyLow k⟩]
  | _, _ => []

/-- The plan of the accepted command (R65). -/
def State.plan (s : State) : List Stage := Machine.plan s.opl s.cml s.key

/-- `PLAN(OPL, CML)[stage]` (R67, R68). -/
def State.currentStage (s : State) : Option Stage := s.plan[s.stage.val]?

end Sys2Proof.Machine
end

