-- ==== Sys2Proof/Machine/Ops.lean ====
section
/-! DEFINITION. The shared operations: the two exceptional events (R99, R102, R104), acceptance of a command (R96), the host's reads and
writes (R93, R94), and reset (R111). -/

namespace Sys2Proof.Machine

/-! ## Exceptional events -/

/-- A dropped write: "STATUS.WOVR <- 1" and nothing else (R104). -/
def State.dropWrite (s : State) : State := { s with wovr := true }

/-- `raise Reject(code)`: DONE and ERR, "nothing else changes" (R102). -/
def State.reject (s : State) (code : ErrCode) : State := { s with err := code, done := true }

/-- `if BUSY then WOVR <- 1 else …`, the guard of every write that a command in progress drops (R94, R104). -/
def State.whenIdle (s t : State) : State := if s.busy then s.dropWrite else t

/-! ## Dispatch -/

/-- Acceptance of a command (R96). WOVR, DOUT, CHAIN and RK0-RK2 are not written. -/
def State.accept (s : State) (op : BitVec 4) (cm : BitVec 2) (v : Variant) (block : Word) : State :=
  { s with
    opl := op, cml := cm, vl := v, st := block, stage := 0, phase := .start, done := false, err := .ok }

/-- A write of a legal command word to CMD: dropped while BUSY, else rejected when KEY is too wide, else accepted (R94, R96, R106). -/
def startCommand (s : State) (op : BitVec 4) (cm : BitVec 2) (v : Variant) (bits : KeyBits) (block : Word) : State :=
  s.whenIdle (if keyTooWide bits s.key then s.reject .keyWidth else s.accept op cm v block)

/-- A write of an illegal word to CMD: dropped while BUSY, else rejected (R40, R94, R106). -/
def illegalCommand (s : State) : State := s.whenIdle (s.reject .illegal)

/-! ## Host accesses -/

/-- The value of a register as the host reads it (R93). -/
def State.readReg (s : State) : Reg → Word
  | .cmd => 0x0000#16
  | .status => s.statusWord
  | .din => s.din
  | .dout => s.dout
  | .key0 => keyLow s.key
  | .key1 => keyMid s.key
  | .key2 => keyHigh s.key
  | .chain => s.chain
  | .rk0 => s.rk0
  | .rk1 => s.rk1
  | .rk2 => s.rk2

/-- The value `HostRead(a)` returns; a reserved address reads 0x0000 (R93). -/
def State.hostRead (s : State) (a : Addr) : Word :=
  match Reg.ofAddr a with
  | some r => s.readReg r
  | none => 0x0000#16

/-- A host read: its value goes to the host's log, and no state of the block changes (R26, R93). -/
def State.logRead (s : State) (a : Addr) : State := { s with readLog := (a, s.hostRead a) :: s.readLog }

/-- `HostWrite(a, v)` (R94), with `dispatch` what a write to CMD does. Writes to read-only and reserved addresses are ignored. -/
def State.hostWrite (s : State) (dispatch : Word → State → Result) (a : Addr) (v : Word) : Result :=
  match Reg.ofAddr a with
  | some .cmd => dispatch v s
  | some .status => .next (s.statusWrite v)
  | some .din => .next (s.whenIdle { s with din := v })
  | some .key0 => .next (s.whenIdle { s with key := setKey0 s.key v })
  | some .key1 => .next (s.whenIdle { s with key := setKey1 s.key v })
  | some .key2 => .next (s.whenIdle { s with key := setKey2 s.key v })
  | some .chain => .next (s.whenIdle { s with chain := v })
  | some .dout => .next s
  | some .rk0 => .next s
  | some .rk1 => .next s
  | some .rk2 => .next s
  | none => .next s

/-- POLL (R43): read STATUS; "repeat while bit 0 (BUSY) is 1". Between two reads the sequencer takes one step (R120;
notes/assumptions/3.md). -/
def State.pollStatus (s : State) : State :=
  let s' := s.logRead Reg.status.addr
  if s.busy then { s' with script := .sequencer :: .poll :: s.script } else s'

/-! ## Reset and the script -/

/-- Reset (R111): every register of the block as after reset; what is outside the block stays. -/
def State.hostReset (s : State) : State := { State.reset with script := s.script, readLog := s.readLog }

/-- The events that remain once the first has been taken. -/
def State.popScript (s : State) : State := { s with script := s.script.tail }

end Sys2Proof.Machine
end

