-- ==== Sys2Proof/Machine/Block.lean ====
section
/-! DEFINITION. The single-block commands ENC, DEC and KEXP (rules R71, R72, R73): what writing the command's word to CMD does. The stages
that follow are the sequencer's (Sequencer.lean), by the plans of R66. -/

namespace Sys2Proof.Machine

/-- ENC (R71). -/
def execEnc (v : Variant) (s : State) : Result :=
  .next (startCommand s 0x1#4 0b00#2 v .k16 (maskN v s.din))

/-- DEC (R72). -/
def execDec (v : Variant) (s : State) : Result :=
  .next (startCommand s 0x2#4 0b00#2 v .k16 (maskN v s.din))

/-- KEXP (R73): "at acceptance ST is not written". -/
def execKexp (v : Variant) (s : State) : Result :=
  .next (startCommand s 0x7#4 0b00#2 v .k16 s.st)

end Sys2Proof.Machine
end

