-- ==== Sys2Proof/Machine/Cascade.lean ====
section
/-! DEFINITION. The cascade commands (42_cascade.md, rules R79 to R84): what writing the command's word to CMD does. The stages that follow
are the sequencer's, by the plans of R75. -/

namespace Sys2Proof.Machine

/-- DENC, double encryption (R79). -/
def execDenc (v : Variant) (s : State) : Result :=
  .next (startCommand s 0x3#4 0b00#2 v .k32 (maskN v s.din))

/-- DDEC, double decryption (R80). -/
def execDdec (v : Variant) (s : State) : Result :=
  .next (startCommand s 0x4#4 0b00#2 v .k32 (maskN v s.din))

/-- TENC2, triple encryption, two-key EDE (R81). -/
def execTenc2 (v : Variant) (s : State) : Result :=
  .next (startCommand s 0x3#4 0b01#2 v .k32 (maskN v s.din))

/-- TDEC2, triple decryption, two-key EDE (R82). -/
def execTdec2 (v : Variant) (s : State) : Result :=
  .next (startCommand s 0x4#4 0b01#2 v .k32 (maskN v s.din))

/-- TENC3, triple encryption, three keys (R83): no key is too wide. -/
def execTenc3 (v : Variant) (s : State) : Result :=
  .next (startCommand s 0x3#4 0b10#2 v .k48 (maskN v s.din))

/-- TDEC3, triple decryption, three keys (R84): no key is too wide. -/
def execTdec3 (v : Variant) (s : State) : Result :=
  .next (startCommand s 0x4#4 0b10#2 v .k48 (maskN v s.din))

end Sys2Proof.Machine
end

