-- ==== Sys2Proof/Machine/Cbc.lean ====
section
/-! DEFINITION. The CBC commands (43_cbc.md, rules R87, R88): what writing the command's word to CMD does. The stage that follows is the
sequencer's, by the plans of R85, and CHAIN is updated at completion (R70). -/

namespace Sys2Proof.Machine

/-- CBCENC (R87): `ST <- zext_16((DIN ^ CHAIN)[N-1:0])`. -/
def execCbcenc (v : Variant) (s : State) : Result :=
  .next (startCommand s 0x5#4 0b00#2 v .k16 (maskN v (s.din ^^^ s.chain)))

/-- CBCDEC (R88): `ST <- zext_16(DIN[N-1:0])`. -/
def execCbcdec (v : Variant) (s : State) : Result :=
  .next (startCommand s 0x6#4 0b00#2 v .k16 (maskN v s.din))

end Sys2Proof.Machine
end

