-- ==== Sys2Proof/Machine/Dispatch.lean ====
section
/-! DEFINITION. The meaning of a command: what a host write of its word to CMD does (rules R94, R96). One arm per row of R38's table. -/

namespace Sys2Proof.Machine

def exec (i : Instr) (s : State) : Host.Outcome State Fault Refusal :=
  match i with
  | .enc v => Sys2Proof.Machine.execEnc v s
  | .dec v => Sys2Proof.Machine.execDec v s
  | .denc v => Sys2Proof.Machine.execDenc v s
  | .ddec v => Sys2Proof.Machine.execDdec v s
  | .tenc2 v => Sys2Proof.Machine.execTenc2 v s
  | .tdec2 v => Sys2Proof.Machine.execTdec2 v s
  | .tenc3 v => Sys2Proof.Machine.execTenc3 v s
  | .tdec3 v => Sys2Proof.Machine.execTdec3 v s
  | .cbcenc v => Sys2Proof.Machine.execCbcenc v s
  | .cbcdec v => Sys2Proof.Machine.execCbcdec v s
  | .kexp v => Sys2Proof.Machine.execKexp v s

end Sys2Proof.Machine
end

