-- ==== Sys2Proof/Machine/Sequencer.lean ====
section
/-! DEFINITION. The round sequencer (41_block_cipher.md, rules R63 to R70): one step per source state. -/

namespace Sys2Proof.Machine

/-- The round steps of R63. -/
inductive RoundStep where
  | km0
  | km1
  | km2
  | sub
  | isub
  | perm
  | iperm
  | mix
  | imix
deriving DecidableEq, Repr

/-- The micro-sequence `SEQ(dir, V)` (R63). -/
def seq (dir : Dir) (v : Variant) : List RoundStep :=
  match dir, v with
  | .encrypt, .v16 => [.km0, .sub, .perm, .mix, .km1, .sub, .perm, .km2]
  | .encrypt, .v8 => [.km0, .sub, .perm, .km1, .sub, .perm, .km2]
  | .decrypt, .v16 => [.km2, .iperm, .isub, .km1, .imix, .iperm, .isub, .km0]
  | .decrypt, .v8 => [.km2, .iperm, .isub, .km1, .iperm, .isub, .km0]

/-- A function on N-bit blocks applied to ST: `zext_16(f_N(ST[N-1:0]))` (R63). -/
def onBlock (v : Variant) (f16 : Word → Word) (f8 : Byte → Byte) (x : Word) : Word :=
  match v with
  | .v16 => f16 x
  | .v8 => zext16 (f8 (lowByte x))

/-- `KeyMix_N` on ST, the round key taken N bits wide (R54, R63). -/
def keyMixN (v : Variant) (x rk : Word) : Word :=
  onBlock v (fun y => keyMix16 y rk) (fun y => keyMix8 y (lowByte rk)) x

/-- `SubNib_N` on ST (R63). -/
def subNibN (v : Variant) (x : Word) : Word := onBlock v subNib16 subNib8 x

/-- `InvSubNib_N` on ST (R63). -/
def invSubNibN (v : Variant) (x : Word) : Word := onBlock v invSubNib16 invSubNib8 x

/-- `Perm_N` on ST (R63). -/
def permN (v : Variant) (x : Word) : Word := onBlock v perm16 perm8 x

/-- The new ST of a round step (R63). -/
def RoundStep.apply (r : RoundStep) (s : State) : Word :=
  match r with
  | .km0 => keyMixN s.vl s.st s.rk0
  | .km1 => keyMixN s.vl s.st s.rk1
  | .km2 => keyMixN s.vl s.st s.rk2
  | .sub => subNibN s.vl s.st
  | .isub => invSubNibN s.vl s.st
  | .perm => permN s.vl s.st
  | .iperm => permN s.vl s.st
  | .mix => Machine.mix s.st
  | .imix => invMix s.st

/-- `RK0 <- zext_16(r0)` and so on (R67). -/
def State.loadSchedule (s : State) (ks : Schedule 16) : State := { s with rk0 := ks.rk0, rk1 := ks.rk1, rk2 := ks.rk2 }

/-- Step at START (R67). -/
def startStep (s : State) : Result :=
  match s.currentStage with
  | some stg =>
    .next { s.loadSchedule (expand s.vl stg.subkey) with
      phase := if s.opl = 0x7#4 then .sdone else .run 0 }
  | none => .fault .noTransition

/-- Step at RUN(i) (R68). -/
def roundStep (i : Fin 8) (s : State) : Result :=
  match s.currentStage with
  | some ⟨some dir, _⟩ =>
    match (seq dir s.vl)[i.val]? with
    | some r =>
      .next { s with
        st := r.apply s
        phase := if i.val + 1 < (seq dir s.vl).length then .run (i + 1) else .sdone }
    | none => .fault .noTransition
  | some ⟨none, _⟩ => .fault .noTransition
  | none => .fault .noTransition

/-- The results written at completion, by OPL (R70). CHAIN is read before it is replaced (R88). -/
def State.writeResults (s : State) : State :=
  if s.opl = 0x5#4 then { s with dout := maskN s.vl s.st, chain := maskN s.vl s.st }
  else if s.opl = 0x6#4 then { s with dout := maskN s.vl (s.st ^^^ s.chain), chain := maskN s.vl s.din }
  else if s.opl = 0x7#4 then s
  else { s with dout := maskN s.vl s.st }

/-- Completion (R70), one atomic step. -/
def State.complete (s : State) : State :=
  { s.writeResults with done := true, err := .ok, stage := 0, phase := .idle }

/-- Step at SDONE (R69). -/
def doneStep (s : State) : Result :=
  match s.currentStage with
  | some _ =>
    if s.stage.val + 1 < s.plan.length then .next { s with stage := s.stage + 1, phase := .start }
    else .next s.complete
  | none => .fault .noTransition

/-- One step of the sequencer (R64); at IDLE it is quiescent. -/
def sequencerStep (s : State) : Result :=
  match s.phase with
  | .idle => .next s
  | .start => startStep s
  | .run i => roundStep i s
  | .sdone => doneStep s

end Sys2Proof.Machine
end

