-- ==== Sys2Proof/Machine/Events.lean ====
section
/-! DEFINITION. The events of a run (rules R10, R29, R64, R106): what each does to a state whose script has already moved past it. -/

namespace Sys2Proof.Machine

/-- A host write of word `w` to CMD: "decoded when written" (R32, R96). -/
def commandWrite (w : Word) (s : State) : Host.Outcome State Fault Refusal :=
  match decode w with
  | .ok i => exec i s
  | .error _ => .next (illegalCommand s)

/-- One event at a state whose script has already moved past it. -/
def occur (e : Event) (s : State) : Host.Outcome State Fault Refusal :=
  match e with
  | .read a => .next (s.logRead a)
  | .write a v => s.hostWrite commandWrite a v
  | .poll => .next s.pollStatus
  | .sequencer => sequencerStep s
  | .reset => .next s.hostReset
  | .badAccess k => .refused (.noSuchAccess k)

end Sys2Proof.Machine
end

