-- ==== Sys2Proof/Machine/Step.lean ====
section
/-! DEFINITION. One step of the machine: the next event of the script, or a sequencer step where the script is empty (rules R10, R29, R64,
R106, R120; notes/assumptions/1.md). -/

namespace Sys2Proof.Machine

/-- One step of the machine. -/
def step (s : State) : Host.Outcome State Fault Refusal :=
  match s.script with
  | [] => sequencerStep s
  | e :: _ => occur e s.popScript

/-- `s` with a host write of the table word to CMD as its next event, at an idle block, so that the next step runs exactly that command: a
write to CMD is dropped while BUSY (R104; notes/assumptions/4.md). -/
def State.withFetchWord (s : State) (nbits w : Nat) : State :=
  { s with phase := .idle, stage := 0, script := .write Reg.cmd.addr (tableWord nbits w) :: s.script }

end Sys2Proof.Machine
end

