-- ==== Sys2Proof/Machine/Cipher.lean ====
section
/-! DEFINITION. The cipher as functions (rules R60, R61, R76, R89): what a command computes, beside the sequencer that computes it step by
step. The sequencer does not call these; the statements compare the two. -/

namespace Sys2Proof.Machine

/-- `Enc_16(p, k)` (R60). -/
def enc16 (p k : Word) : Word :=
  let ks := expand16 k
  let x := keyMix16 p ks.rk0
  let x := subNib16 x
  let x := perm16 x
  let x := mix x
  let x := keyMix16 x ks.rk1
  let x := subNib16 x
  let x := perm16 x
  keyMix16 x ks.rk2

/-- `Enc_8(p, k)` (R60). -/
def enc8 (p : Byte) (k : Word) : Byte :=
  let ks := expand8 k
  let x := keyMix8 p ks.rk0
  let x := subNib8 x
  let x := perm8 x
  let x := keyMix8 x ks.rk1
  let x := subNib8 x
  let x := perm8 x
  keyMix8 x ks.rk2

/-- `Dec_16(c, k)` (R61). -/
def dec16 (c k : Word) : Word :=
  let ks := expand16 k
  let x := keyMix16 c ks.rk2
  let x := perm16 x
  let x := invSubNib16 x
  let x := keyMix16 x ks.rk1
  let x := invMix x
  let x := perm16 x
  let x := invSubNib16 x
  keyMix16 x ks.rk0

/-- `Dec_8(c, k)` (R61). -/
def dec8 (c : Byte) (k : Word) : Byte :=
  let ks := expand8 k
  let x := keyMix8 c ks.rk2
  let x := perm8 x
  let x := invSubNib8 x
  let x := keyMix8 x ks.rk1
  let x := perm8 x
  let x := invSubNib8 x
  keyMix8 x ks.rk0

/-- `zext_16(Enc_N(x[N-1:0], k))` (R60, R71). -/
def encN (v : Variant) (x k : Word) : Word := onBlock v (fun y => enc16 y k) (fun y => enc8 y k) x

/-- `zext_16(Dec_N(x[N-1:0], k))` (R61, R72). -/
def decN (v : Variant) (x k : Word) : Word := onBlock v (fun y => dec16 y k) (fun y => dec8 y k) x

/-- `DEnc_N(x)` (R76). -/
def dencN (v : Variant) (k1 k2 x : Word) : Word := encN v (encN v x k1) k2

/-- `DDec_N(x)` (R76). -/
def ddecN (v : Variant) (k1 k2 x : Word) : Word := decN v (decN v x k2) k1

/-- `TEnc2_N(x)` (R76). -/
def tenc2N (v : Variant) (k1 k2 x : Word) : Word := encN v (decN v (encN v x k1) k2) k1

/-- `TDec2_N(x)` (R76). -/
def tdec2N (v : Variant) (k1 k2 x : Word) : Word := decN v (encN v (decN v x k1) k2) k1

/-- `TEnc3_N(x)` (R76). -/
def tenc3N (v : Variant) (k1 k2 k3 x : Word) : Word := encN v (decN v (encN v x k1) k2) k3

/-- `TDec3_N(x)` (R76). -/
def tdec3N (v : Variant) (k1 k2 k3 x : Word) : Word := decN v (encN v (decN v x k3) k2) k1

/-- `cbcEncrypt(blocks, k, iv)`: `c[j] = Enc_N(b[j] ^ c[j-1], k)` with `c[-1] = iv` (R89). -/
def cbcEncrypt (v : Variant) (k : Word) : Word → List Word → List Word
  | _, [] => []
  | iv, b :: bs =>
    let c := encN v (b ^^^ iv) k
    c :: cbcEncrypt v k c bs

/-- `cbcDecrypt(blocks, k, iv)`: `p[j] = Dec_N(c[j], k) ^ c[j-1]` with `c[-1] = iv` (R89). -/
def cbcDecrypt (v : Variant) (k : Word) : Word → List Word → List Word
  | _, [] => []
  | iv, c :: cs => maskN v (decN v c k ^^^ iv) :: cbcDecrypt v k (maskN v c) cs

end Sys2Proof.Machine
end

