-- ==== Sys2Proof/Machine/HostProgram.lean ====
section
/-! DEFINITION. The host's programs (rules R42, R43, R89): lines of the host syntax and the events they stand for. A program runs when it is
the machine's script. -/

namespace Sys2Proof.Machine

/-- A line of the host syntax: the two accesses of R42 and the pseudo-instructions of R43 (`CMD <mnemonic>` and `CMD <mnemonic>.V8` are one
line, the command naming its variant). -/
inductive HostLine where
  | wr (a : Addr) (v : Word)
  | rd (a : Addr)
  | cmd (i : Instr)
  | wrkey (k : Key)
  | poll
  | clr
deriving DecidableEq, Repr

/-- The expansion of a line (R42, R43). -/
def HostLine.events : HostLine → List Event
  | .wr a v => [.write a v]
  | .rd a => [.read a]
  | .cmd i => [.write Reg.cmd.addr (encode i)]
  | .wrkey k =>
    [.write Reg.key0.addr (keyLow k), .write Reg.key1.addr (keyMid k), .write Reg.key2.addr (keyHigh k)]
  | .poll => [.poll]
  | .clr => [.write Reg.status.addr 0x0012#16]

/-- A host program as a script. -/
def hostScript (p : List HostLine) : List Event := p.flatMap HostLine.events

/-- One block of a chain traversal: write DIN, write CMD, poll, read DOUT (R89). -/
def cbcBlockLines (i : Instr) (b : Word) : List HostLine :=
  [.wr Reg.din.addr b, .cmd i, .poll, .rd Reg.dout.addr]

/-- A chain traversal (R89): write KEY = k with KEY[47:16] = 0, write CHAIN = iv, then each block in order. `i` is CBCENC or CBCDEC. -/
def cbcTraversal (i : Instr) (k iv : Word) (blocks : List Word) : List Event :=
  hostScript (.wrkey (BitVec.setWidth 48 k) :: .wr Reg.chain.addr iv :: blocks.flatMap (cbcBlockLines i))

/-- The values read from DOUT, oldest first. -/
def State.doutReads (s : State) : List Word :=
  ((s.readLog.filter (fun r => r.1 == Reg.dout.addr)).map Prod.snd).reverse

end Sys2Proof.Machine
end

