-- ==== Sys2Proof/Safety.lean ====
section
/-! DEFINITION. What the statements speak of: runs, the time a command takes (R119), completion, and the invariant of the control state. -/

namespace Sys2Proof.Machine

/-! ## Runs -/

/-- `n` sequencer steps, with no host access between them. -/
def runSequencer : Nat → State → Result
  | 0, s => .next s
  | n + 1, s =>
    match sequencerStep s with
    | .next t => runSequencer n t
    | .fault r => .fault r
    | .refused r => .refused r

/-- `n` steps of the machine, stopping at the first fault or refusal. -/
def runSteps : Nat → State → Result
  | 0, s => .next s
  | n + 1, s =>
    match step s with
    | .next t => runSteps n t
    | .fault r => .fault r
    | .refused r => .refused r

/-- The steps of one stage that runs the cipher: START, 8 or 7 round steps, SDONE (R119). -/
def stageSteps : Variant → Nat
  | .v16 => 10
  | .v8 => 9

/-- The sequencer steps from acceptance to completion (the table of R119). -/
def stepCount : Instr → Nat
  | .enc v => stageSteps v
  | .dec v => stageSteps v
  | .denc v => 2 * stageSteps v
  | .ddec v => 2 * stageSteps v
  | .tenc2 v => 3 * stageSteps v
  | .tdec2 v => 3 * stageSteps v
  | .tenc3 v => 3 * stageSteps v
  | .tdec3 v => 3 * stageSteps v
  | .cbcenc v => stageSteps v
  | .cbcdec v => stageSteps v
  | .kexp _ => 2

/-- The sequencer takes `t` to the idle state `u` in exactly `n` steps, and BUSY is 1 until then. -/
def CompletesIn (n : Nat) (t u : State) : Prop :=
  runSequencer n t = .next u ∧ u.phase = .idle ∧ ∀ m < n, ∃ w, runSequencer m t = .next w ∧ w.phase ≠ .idle

/-! ## Events -/

/-- A host read, a host write or a sequencer step: the events that may fall inside a command without ending it. -/
def Event.inside : Event → Bool
  | .read _ => true
  | .write _ _ => true
  | .sequencer => true
  | .poll => false
  | .reset => false
  | .badAccess _ => false

/-- The word addresses whose writes a command in progress drops: CMD, DIN, KEY0-KEY2, CHAIN (R104). -/
def droppedAddrs : List Addr :=
  [Reg.cmd.addr, Reg.din.addr, Reg.key0.addr, Reg.key1.addr, Reg.key2.addr, Reg.chain.addr]

/-! ## The invariant -/

/-- What holds of the control state after any run of events from reset. -/
structure ControlInv (s : State) : Prop where
  /-- "BUSY and DONE are never both 1" (R16). -/
  busyNotDone : s.phase ≠ .idle → s.done = false
  /-- "ERR is nonzero only while DONE is 1" (R16). -/
  errOnlyDone : s.err ≠ .ok → s.done = true
  /-- Completion, reset and acceptance leave `stage` 0 (R70, R96, R111). -/
  idleStage : s.phase = .idle → s.stage = 0
  /-- A command in progress has a current stage (R65). -/
  planned : s.phase ≠ .idle → ∃ stg, s.currentStage = some stg
  /-- RUN(i) is a round step of the current stage's sequence (R63, R68). -/
  roundInSeq : ∀ i, s.phase = .run i → ∃ dir k, s.currentStage = some ⟨some dir, k⟩ ∧ i.val < (seq dir s.vl).length
  /-- The command in progress fits its key: a 16-bit command has KEY[47:16] = 0 (R101, R104). -/
  narrowKey : s.phase ≠ .idle → s.opl ≠ 0x3#4 → s.opl ≠ 0x4#4 → s.key.extractLsb' 16 32 = 0#32
  /-- The same for the 32-bit cascades: KEY[47:32] = 0 (R101, R104). -/
  cascadeKey : s.phase ≠ .idle → s.cml ≠ 0b10#2 → s.key.extractLsb' 32 16 = 0#16
  /-- "In V8 only ST[7:0] is significant and ST[15:8] is kept 0" (R17); KEXP does not load ST (R73). -/
  narrowSt : s.vl = .v8 → s.opl ≠ 0x7#4 → maskN .v8 s.st = s.st
  /-- From the START step on, RK0-RK2 hold the current stage's schedule (R21, R67). -/
  schedule : s.phase ≠ .idle → s.phase ≠ .start → ∀ stg, s.currentStage = some stg →
    (⟨s.rk0, s.rk1, s.rk2⟩ : Schedule 16) = expand s.vl stg.subkey

end Sys2Proof.Machine
end

