-- ==== Sys2Proof/Certificates/Slice0/Obligations.lean ====
section
/-! DEFINITION. The statements for the provers, in the order of OBLIGATIONS.json. Each docstring names the rule it formalises. -/

open Sys2Proof Sys2Proof.Machine

/-! ## Reset, events and steps -/

/-- From R111: what reset leaves of the block, from any state, busy or not. That a reset inside a run keeps `script` and `readLog`, and that
both are empty in State.reset, is the model's choice (notes/assumptions/1.md, 2.md). -/
def Obligations.ResetClearsEveryRegister : Prop :=
  (∀ s : State, occur .reset s = .next
    { din := 0#16, dout := 0#16, key := 0#48, chain := 0#16, rk0 := 0#16, rk1 := 0#16, rk2 := 0#16, done := false, err := .ok, wovr := false,
      st := 0#16, phase := .idle, stage := 0, opl := 0#4, cml := 0#2, vl := .v16, script := s.script, readLog := s.readLog }) ∧
  State.reset =
    { din := 0#16, dout := 0#16, key := 0#48, chain := 0#16, rk0 := 0#16, rk1 := 0#16, rk2 := 0#16, done := false, err := .ok, wovr := false,
      st := 0#16, phase := .idle, stage := 0, opl := 0#4, cml := 0#2, vl := .v16, script := [], readLog := [] } ∧
  State.reset.busy = false

/-- A step takes the next event of the script, or a sequencer step where there is none; a write to CMD of a word that decodes to `i` is
`exec i`. The script is the model's own (notes/assumptions/1.md); that a CMD write is decoded when written is R32 and R96. -/
def Obligations.StepRunsTheDecodedCommand : Prop :=
  (∀ s : State, s.script = [] → step s = sequencerStep s) ∧
  (∀ (s : State) (e : Event) (rest : List Event), s.script = e :: rest → step s = occur e { s with script := rest }) ∧
  (∀ (s : State) (w : Word) (i : Instr) (rest : List Event), s.script = .write 0x0#4 w :: rest → decode w = .ok i →
    step s = exec i { s with script := rest }) ∧
  (∀ (s : State) (w : Word) (x : DecodeError) (rest : List Event), s.script = .write 0x0#4 w :: rest → decode w = .error x →
    step s = .next (illegalCommand { s with script := rest })) ∧
  (∀ s : State, occur .sequencer s = sequencerStep s)

/-- From R24 and D10 (narrower and misaligned accesses) and U8 (addresses outside 0x0-0xF): a model must refuse an access the interface does
not have. The four kinds of event, the wider access among them, and the name noSuchAccess are the model's (notes/assumptions/12.md). -/
def Obligations.MissingAccessIsRefused : Prop :=
  ∀ (s : State) (k : BadAccess) (rest : List Event), s.script = .badAccess k :: rest → step s = .refused (.noSuchAccess k)

/-! ## Encoding -/

/-- From R38: words of the command table, written from its columns `match` and `+ 0x0040`, decode to their rows. -/
def Obligations.TableWordsDecodeToTheirRows : Prop :=
  decode 0x0001#16 = .ok (.enc .v16) ∧ decode 0x0041#16 = .ok (.enc .v8) ∧ decode 0x0002#16 = .ok (.dec .v16) ∧
  decode 0x0003#16 = .ok (.denc .v16) ∧ decode 0x0004#16 = .ok (.ddec .v16) ∧ decode 0x0013#16 = .ok (.tenc2 .v16) ∧
  decode 0x0014#16 = .ok (.tdec2 .v16) ∧ decode 0x0063#16 = .ok (.tenc3 .v8) ∧ decode 0x0024#16 = .ok (.tdec3 .v16) ∧
  decode 0x0005#16 = .ok (.cbcenc .v16) ∧ decode 0x0046#16 = .ok (.cbcdec .v8) ∧ decode 0x0007#16 = .ok (.kexp .v16)

/-- From R38 and R40: decoding inverts encoding for every command, and every word that decodes is the encoding of what it decodes to, so no bit of
an encoding is dropped and no word is read as a neighbour's. -/
def Obligations.DecodeAndEncodeAreInverse : Prop :=
  (∀ i : Instr, decode (encode i) = .ok i) ∧ (∀ (w : Word) (i : Instr), decode w = .ok i → w = encode i)

/-- R40: the words the decoder rejects are exactly the illegal ones, and an idle block rejects each with ERR = ILLEGAL. -/
def Obligations.IllegalWordsAreExactlyThoseOfTheRule : Prop :=
  ∀ w : Word,
    ((∃ x, decode w = .error x) ↔
      ((w.extractLsb' 0 4 = 0x0#4 ∨ 8 ≤ (w.extractLsb' 0 4).toNat) ∨
       ((w.extractLsb' 0 4 = 0x3#4 ∨ w.extractLsb' 0 4 = 0x4#4) ∧ w.extractLsb' 4 2 = 0b11#2) ∨
       ((w.extractLsb' 0 4 ≠ 0x3#4 ∧ w.extractLsb' 0 4 ≠ 0x4#4) ∧ w.extractLsb' 4 2 ≠ 0b00#2) ∨
       w.extractLsb' 7 9 ≠ 0#9)) ∧
    (wordIllegal w = true ↔ ∃ x, decode w = .error x) ∧
    (∀ s : State, s.phase = .idle → wordIllegal w = true →
      commandWrite w s = .next { s with done := true, err := .illegal }) ∧
    (wordIllegal w = false ↔ ∃ i, w = encode i)

/-- From R38's match column: `word & 0xFFBF == match` selects the row, and bit 6 the variant. -/
def Obligations.MaskedWordSelectsTheRow : Prop :=
  ∀ (w : Word) (v : Variant), (w.getLsbD 6 = true ↔ v = .v8) →
    (decode w = .ok (.enc v) ↔ w &&& 0xFFBF#16 = 0x0001#16) ∧
    (decode w = .ok (.dec v) ↔ w &&& 0xFFBF#16 = 0x0002#16) ∧
    (decode w = .ok (.denc v) ↔ w &&& 0xFFBF#16 = 0x0003#16) ∧
    (decode w = .ok (.ddec v) ↔ w &&& 0xFFBF#16 = 0x0004#16) ∧
    (decode w = .ok (.tenc2 v) ↔ w &&& 0xFFBF#16 = 0x0013#16) ∧
    (decode w = .ok (.tdec2 v) ↔ w &&& 0xFFBF#16 = 0x0014#16) ∧
    (decode w = .ok (.tenc3 v) ↔ w &&& 0xFFBF#16 = 0x0023#16) ∧
    (decode w = .ok (.tdec3 v) ↔ w &&& 0xFFBF#16 = 0x0024#16) ∧
    (decode w = .ok (.cbcenc v) ↔ w &&& 0xFFBF#16 = 0x0005#16) ∧
    (decode w = .ok (.cbcdec v) ↔ w &&& 0xFFBF#16 = 0x0006#16) ∧
    (decode w = .ok (.kexp v) ↔ w &&& 0xFFBF#16 = 0x0007#16)

/-! ## Host accesses -/

/-- From R93: every address's value, at any state. R93 says a read writes no state of the block; that it adds its value to `readLog` is the
model's choice (notes/assumptions/2.md). The last
two clauses are the rule's corner cases: what DOUT, CHAIN and RK0-RK2 read as while BUSY = 1. -/
def Obligations.HostReadReturnsTheRegister : Prop :=
  (∀ (s : State) (a : Addr), occur (.read a) s = .next { s with readLog := (a, s.hostRead a) :: s.readLog }) ∧
  (∀ s : State,
    s.hostRead 0x0#4 = 0x0000#16 ∧
    (s.hostRead 0x1#4).toNat = 16 * s.wovr.toNat + 4 * s.err.code.toNat + 2 * s.done.toNat + (decide (s.phase ≠ .idle)).toNat ∧
    s.hostRead 0x2#4 = s.din ∧ s.hostRead 0x3#4 = s.dout ∧
    s.hostRead 0x4#4 = s.key.extractLsb' 0 16 ∧ s.hostRead 0x5#4 = s.key.extractLsb' 16 16 ∧
    s.hostRead 0x6#4 = s.key.extractLsb' 32 16 ∧ s.hostRead 0x7#4 = s.chain ∧
    s.hostRead 0x8#4 = s.rk0 ∧ s.hostRead 0x9#4 = s.rk1 ∧ s.hostRead 0xA#4 = s.rk2 ∧
    ∀ a : Addr, 0xB ≤ a.toNat → s.hostRead a = 0x0000#16) ∧
  State.reset.hostRead 0x1#4 = 0x0000#16 ∧
  (∀ s t : State, sequencerStep s = .next t → t.phase ≠ .idle →
    t.hostRead 0x3#4 = s.hostRead 0x3#4 ∧ t.hostRead 0x7#4 = s.hostRead 0x7#4) ∧
  (∀ (s t : State) (stg : Stage), sequencerStep s = .next t → s.phase = .start → s.currentStage = some stg →
    t.hostRead 0x8#4 = (expand s.vl stg.subkey).rk0 ∧ t.hostRead 0x9#4 = (expand s.vl stg.subkey).rk1 ∧
    t.hostRead 0xA#4 = (expand s.vl stg.subkey).rk2) ∧
  (∀ s t : State, sequencerStep s = .next t → s.phase ≠ .start →
    t.hostRead 0x8#4 = s.hostRead 0x8#4 ∧ t.hostRead 0x9#4 = s.hostRead 0x9#4 ∧ t.hostRead 0xA#4 = s.hostRead 0xA#4)

/-- R94: what a write does at every address, busy and idle. -/
def Obligations.HostWriteStoresIgnoresOrDrops : Prop :=
  ∀ (s : State) (v : Word),
    (s.phase ≠ .idle → ∀ a ∈ droppedAddrs, occur (.write a v) s = .next { s with wovr := true }) ∧
    (s.phase = .idle → occur (.write 0x0#4 v) s = commandWrite v s) ∧
    occur (.write 0x1#4 v) s = .next (s.statusWrite v) ∧
    (s.phase = .idle → occur (.write 0x2#4 v) s = .next { s with din := v }) ∧
    (s.phase = .idle → occur (.write 0x4#4 v) s =
      .next { s with key := s.key.extractLsb' 32 16 ++ s.key.extractLsb' 16 16 ++ v }) ∧
    (s.phase = .idle → occur (.write 0x5#4 v) s =
      .next { s with key := s.key.extractLsb' 32 16 ++ v ++ s.key.extractLsb' 0 16 }) ∧
    (s.phase = .idle → occur (.write 0x6#4 v) s =
      .next { s with key := v ++ s.key.extractLsb' 16 16 ++ s.key.extractLsb' 0 16 }) ∧
    (s.phase = .idle → occur (.write 0x7#4 v) s = .next { s with chain := v }) ∧
    (∀ a : Addr, a = 0x3#4 ∨ 0x8 ≤ a.toNat → occur (.write a v) s = .next s)

/-- R95: a status write, busy or not. -/
def Obligations.StatusWriteClearsTheBitsWrittenAsOne : Prop :=
  ∀ (s : State) (v : Word), occur (.write 0x1#4 v) s = .next { s with
    done := if v.getLsbD 1 then false else s.done
    err := if v.getLsbD 1 then .ok else s.err
    wovr := if v.getLsbD 4 then false else s.wovr }

/-- From R12 and R23: each window of KEY reads back what was written to it, and the other two windows keep their bits. -/
def Obligations.KeyWindowsAreIndependent : Prop :=
  ∀ (s t : State) (v : Word), s.phase = .idle →
    (occur (.write 0x4#4 v) s = .next t →
      t.hostRead 0x4#4 = v ∧ t.hostRead 0x5#4 = s.hostRead 0x5#4 ∧ t.hostRead 0x6#4 = s.hostRead 0x6#4) ∧
    (occur (.write 0x5#4 v) s = .next t →
      t.hostRead 0x5#4 = v ∧ t.hostRead 0x4#4 = s.hostRead 0x4#4 ∧ t.hostRead 0x6#4 = s.hostRead 0x6#4) ∧
    (occur (.write 0x6#4 v) s = .next t →
      t.hostRead 0x6#4 = v ∧ t.hostRead 0x4#4 = s.hostRead 0x4#4 ∧ t.hostRead 0x5#4 = s.hostRead 0x5#4)

/-- R104: a write to CMD, DIN, KEY0-KEY2 or CHAIN while BUSY sets WOVR and does nothing else; only such a write sets WOVR, only a status
write with bit 4 or reset clears it; and the operands stay fixed until completion. -/
def Obligations.BusyWritesAreDropped : Prop :=
  (∀ (s : State) (v : Word), s.phase ≠ .idle → ∀ a ∈ droppedAddrs, occur (.write a v) s = .next { s with wovr := true }) ∧
  (∀ (e : Event) (s t : State), occur e s = .next t → t.wovr ≠ s.wovr →
    (t.wovr = true ∧ s.phase ≠ .idle ∧ ∃ a ∈ droppedAddrs, ∃ v, e = .write a v) ∨
    (t.wovr = false ∧ (e = .reset ∨ ∃ v : Word, e = .write 0x1#4 v ∧ v.getLsbD 4 = true))) ∧
  (∀ (e : Event) (s t : State), occur e s = .next t → s.phase ≠ .idle → e ≠ .reset →
    t.din = s.din ∧ t.key = s.key ∧ (t.phase ≠ .idle → t.chain = s.chain ∧ t.opl = s.opl ∧ t.cml = s.cml ∧ t.vl = s.vl))

/-! ## Dispatch and rejection -/

/-- R96: dispatch of a word written to CMD of an idle block, field by field. -/
def Obligations.DispatchRejectsOrAccepts : Prop :=
  ∀ (w : Word) (s : State), s.phase = .idle →
    (wordIllegal w = true → commandWrite w s = .next { s with done := true, err := .illegal }) ∧
    (wordIllegal w = false →
      ((fieldOp w = 0x3#4 ∨ fieldOp w = 0x4#4) ∧ fieldCm w ≠ 0b10#2 ∧ s.key.extractLsb' 32 16 ≠ 0#16) ∨
      ((fieldOp w ≠ 0x3#4 ∧ fieldOp w ≠ 0x4#4) ∧ s.key.extractLsb' 16 32 ≠ 0#32) →
      commandWrite w s = .next { s with done := true, err := .keyWidth }) ∧
    (wordIllegal w = false →
      ¬ (((fieldOp w = 0x3#4 ∨ fieldOp w = 0x4#4) ∧ fieldCm w ≠ 0b10#2 ∧ s.key.extractLsb' 32 16 ≠ 0#16) ∨
         ((fieldOp w ≠ 0x3#4 ∧ fieldOp w ≠ 0x4#4) ∧ s.key.extractLsb' 16 32 ≠ 0#32)) →
      commandWrite w s = .next { s with
        opl := fieldOp w, cml := fieldCm w, vl := if w.getLsbD 6 then .v8 else .v16
        st := if fieldOp w = 0x7#4 then s.st
              else if fieldOp w = 0x5#4 then (if w.getLsbD 6 then (s.din ^^^ s.chain) &&& 0x00FF#16 else s.din ^^^ s.chain)
              else (if w.getLsbD 6 then s.din &&& 0x00FF#16 else s.din)
        stage := 0, phase := .start, done := false, err := .ok })

/-- R101: which KEY each command rejects with KEYWIDTH, and that it is accepted otherwise. -/
def Obligations.KeyWidthCheckOfEachCommand : Prop :=
  ∀ (v : Variant) (s : State), s.phase = .idle →
    (∀ i ∈ [Instr.enc v, .dec v, .cbcenc v, .cbcdec v, .kexp v],
      (s.key.extractLsb' 16 32 ≠ 0#32 → exec i s = .next { s with done := true, err := .keyWidth }) ∧
      (s.key.extractLsb' 16 32 = 0#32 → ∃ t, exec i s = .next t ∧ t.phase = .start)) ∧
    (∀ i ∈ [Instr.denc v, .ddec v, .tenc2 v, .tdec2 v],
      (s.key.extractLsb' 32 16 ≠ 0#16 → exec i s = .next { s with done := true, err := .keyWidth }) ∧
      (s.key.extractLsb' 32 16 = 0#16 → ∃ t, exec i s = .next t ∧ t.phase = .start)) ∧
    (∀ i ∈ [Instr.tenc3 v, .tdec3 v], ∃ t, exec i s = .next t ∧ t.phase = .start)

/-- R102: a rejection changes DONE and ERR and nothing else, from any state of the flags; with an illegal word the code is ILLEGAL whatever
KEY holds (R103). -/
def Obligations.RejectionIsPrecise : Prop :=
  ∀ (w : Word) (s t : State), s.phase = .idle → commandWrite w s = .next t → t.phase = .idle →
    t.done = true ∧ t.err ≠ .ok ∧ t = { s with done := true, err := t.err } ∧
    (wordIllegal w = true → t.err = .illegal) ∧ (wordIllegal w = false → t.err = .keyWidth)

/-! ## The single-block commands -/

/-- R71: ENC. -/
def Obligations.EncEncryptsDin : Prop :=
  encode (.enc .v16) = 0x0001#16 ∧ encode (.enc .v8) = 0x0041#16 ∧
  (∀ k : Key, plan 0x1#4 0b00#2 k = [⟨some .encrypt, k.extractLsb' 0 16⟩]) ∧
  (∀ (v : Variant) (s : State), s.phase = .idle → s.key.extractLsb' 16 32 = 0#32 →
    ∃ t, exec (.enc v) s = .next t ∧
      t = { s with st := maskN v s.din, opl := 0x1#4, cml := 0b00#2, vl := v, stage := 0, phase := .start, done := false, err := .ok } ∧
      CompletesIn (stageSteps v) t { s with
        st := encN v s.din (keyLow s.key), dout := encN v s.din (keyLow s.key)
        rk0 := (expand v (keyLow s.key)).rk0, rk1 := (expand v (keyLow s.key)).rk1, rk2 := (expand v (keyLow s.key)).rk2
        opl := 0x1#4, cml := 0b00#2, vl := v, stage := 0, phase := .idle, done := true, err := .ok }) ∧
  (∀ (w : Word) (s : State), s.phase = .idle → fieldOp w = 0x1#4 → fieldCm w ≠ 0b00#2 ∨ fieldRsv w ≠ 0#9 →
    commandWrite w s = .next { s with done := true, err := .illegal }) ∧
  (∀ (v : Variant) (s : State), s.phase = .idle → s.key.extractLsb' 16 32 ≠ 0#32 →
    exec (.enc v) s = .next { s with done := true, err := .keyWidth }) ∧
  (∀ (v : Variant) (s : State), s.phase ≠ .idle → exec (.enc v) s = .next { s with wovr := true }) ∧
  (∀ x k : Word, encN .v8 x k = encN .v8 (x &&& 0x00FF#16) k ∧ (encN .v8 x k).extractLsb' 8 8 = 0#8) ∧
  encN .v16 0x0000#16 0x0000#16 = 0x61D2#16 ∧ encN .v8 0x0000#16 0x0000#16 = 0x003B#16 ∧
  encN .v16 0x4142#16 0x4AF4#16 = 0x8AD0#16 ∧ expand .v16 0x4AF4#16 = ⟨0x4AF4#16, 0xB743#16, 0x5C1F#16⟩

/-- R72: DEC. -/
def Obligations.DecDecryptsDin : Prop :=
  encode (.dec .v16) = 0x0002#16 ∧ encode (.dec .v8) = 0x0042#16 ∧
  (∀ k : Key, plan 0x2#4 0b00#2 k = [⟨some .decrypt, k.extractLsb' 0 16⟩]) ∧
  (∀ (v : Variant) (s : State), s.phase = .idle → s.key.extractLsb' 16 32 = 0#32 →
    ∃ t, exec (.dec v) s = .next t ∧
      t = { s with st := maskN v s.din, opl := 0x2#4, cml := 0b00#2, vl := v, stage := 0, phase := .start, done := false, err := .ok } ∧
      CompletesIn (stageSteps v) t { s with
        st := decN v s.din (keyLow s.key), dout := decN v s.din (keyLow s.key)
        rk0 := (expand v (keyLow s.key)).rk0, rk1 := (expand v (keyLow s.key)).rk1, rk2 := (expand v (keyLow s.key)).rk2
        opl := 0x2#4, cml := 0b00#2, vl := v, stage := 0, phase := .idle, done := true, err := .ok }) ∧
  (∀ (w : Word) (s : State), s.phase = .idle → fieldOp w = 0x2#4 → fieldCm w ≠ 0b00#2 ∨ fieldRsv w ≠ 0#9 →
    commandWrite w s = .next { s with done := true, err := .illegal }) ∧
  (∀ (v : Variant) (s : State), s.phase = .idle → s.key.extractLsb' 16 32 ≠ 0#32 →
    exec (.dec v) s = .next { s with done := true, err := .keyWidth }) ∧
  (∀ (v : Variant) (s : State), s.phase ≠ .idle → exec (.dec v) s = .next { s with wovr := true }) ∧
  (∀ (v : Variant) (x k : Word), decN v (encN v x k) k = maskN v x) ∧
  (seq .decrypt .v16)[4]? = some .imix ∧ RoundStep.mix ∉ seq .decrypt .v16 ∧ RoundStep.mix ∉ seq .decrypt .v8 ∧
  decN .v16 0x0000#16 0x0000#16 = 0xD017#16 ∧ decN .v8 0x0000#16 0x0000#16 = 0x007A#16 ∧
  decN .v16 0x8AD0#16 0x4AF4#16 = 0x4142#16

/-- R73: KEXP, which writes RK0-RK2 and no other result. -/
def Obligations.KexpExpandsTheKey : Prop :=
  encode (.kexp .v16) = 0x0007#16 ∧ encode (.kexp .v8) = 0x0047#16 ∧
  (∀ k : Key, plan 0x7#4 0b00#2 k = [⟨none, k.extractLsb' 0 16⟩]) ∧
  (∀ (v : Variant) (s : State), s.phase = .idle → s.key.extractLsb' 16 32 = 0#32 →
    ∃ t, exec (.kexp v) s = .next t ∧
      t = { s with opl := 0x7#4, cml := 0b00#2, vl := v, stage := 0, phase := .start, done := false, err := .ok } ∧
      CompletesIn 2 t { s with
        rk0 := (expand v (keyLow s.key)).rk0, rk1 := (expand v (keyLow s.key)).rk1, rk2 := (expand v (keyLow s.key)).rk2
        opl := 0x7#4, cml := 0b00#2, vl := v, stage := 0, phase := .idle, done := true, err := .ok }) ∧
  (∀ (w : Word) (s : State), s.phase = .idle → fieldOp w = 0x7#4 → fieldCm w ≠ 0b00#2 ∨ fieldRsv w ≠ 0#9 →
    commandWrite w s = .next { s with done := true, err := .illegal }) ∧
  (∀ (v : Variant) (s : State), s.phase = .idle → s.key.extractLsb' 16 32 ≠ 0#32 →
    exec (.kexp v) s = .next { s with done := true, err := .keyWidth }) ∧
  (∀ (v : Variant) (s : State), s.phase ≠ .idle → exec (.kexp v) s = .next { s with wovr := true }) ∧
  (∀ k : Word, (expand .v16 k).rk0 = k ∧ (expand .v8 k).rk0 = zext16 (k.extractLsb' 8 8) ∧
    (expand .v8 k).rk1 = zext16 (k.extractLsb' 0 8)) ∧
  expand .v16 0x0000#16 = ⟨0x0000#16, 0x1919#16, 0x6B72#16⟩ ∧ expand .v8 0x0000#16 = ⟨0x0000#16, 0x0000#16, 0x0019#16⟩ ∧
  expand .v8 0x4AF4#16 = ⟨0x004A#16, 0x00F4#16, 0x00B7#16⟩

/-! ## The cascade commands -/

/-- R79: DENC. -/
def Obligations.DencEncryptsTwice : Prop :=
  encode (.denc .v16) = 0x0003#16 ∧ encode (.denc .v8) = 0x0043#16 ∧
  (∀ k : Key, plan 0x3#4 0b00#2 k = [⟨some .encrypt, k.extractLsb' 16 16⟩, ⟨some .encrypt, k.extractLsb' 0 16⟩]) ∧
  (∀ (v : Variant) (s : State), s.phase = .idle → s.key.extractLsb' 32 16 = 0#16 →
    ∃ t y, exec (.denc v) s = .next t ∧ y = encN v (encN v s.din (keyMid s.key)) (keyLow s.key) ∧
      t = { s with st := maskN v s.din, opl := 0x3#4, cml := 0b00#2, vl := v, stage := 0, phase := .start, done := false, err := .ok } ∧
      CompletesIn (2 * stageSteps v) t { s with
        st := y, dout := y
        rk0 := (expand v (keyLow s.key)).rk0, rk1 := (expand v (keyLow s.key)).rk1, rk2 := (expand v (keyLow s.key)).rk2
        opl := 0x3#4, cml := 0b00#2, vl := v, stage := 0, phase := .idle, done := true, err := .ok }) ∧
  (∀ (v : Variant) (s : State), s.phase = .idle → s.key.extractLsb' 32 16 ≠ 0#16 →
    exec (.denc v) s = .next { s with done := true, err := .keyWidth }) ∧
  dencN .v16 0x0000#16 0x0000#16 0x4142#16 = 0xD1AD#16 ∧
  encN .v16 0x4142#16 0x4AF4#16 = 0x8AD0#16 ∧ dencN .v16 0x4AF4#16 0xA73B#16 0x4142#16 = 0xD8E9#16

/-- R80: DDEC. -/
def Obligations.DdecDecryptsTwice : Prop :=
  encode (.ddec .v16) = 0x0004#16 ∧ encode (.ddec .v8) = 0x0044#16 ∧
  (∀ k : Key, plan 0x4#4 0b00#2 k = [⟨some .decrypt, k.extractLsb' 0 16⟩, ⟨some .decrypt, k.extractLsb' 16 16⟩]) ∧
  (∀ (v : Variant) (s : State), s.phase = .idle → s.key.extractLsb' 32 16 = 0#16 →
    ∃ t y, exec (.ddec v) s = .next t ∧ y = decN v (decN v s.din (keyLow s.key)) (keyMid s.key) ∧
      t = { s with st := maskN v s.din, opl := 0x4#4, cml := 0b00#2, vl := v, stage := 0, phase := .start, done := false, err := .ok } ∧
      CompletesIn (2 * stageSteps v) t { s with
        st := y, dout := y
        rk0 := (expand v (keyMid s.key)).rk0, rk1 := (expand v (keyMid s.key)).rk1, rk2 := (expand v (keyMid s.key)).rk2
        opl := 0x4#4, cml := 0b00#2, vl := v, stage := 0, phase := .idle, done := true, err := .ok }) ∧
  (∀ (v : Variant) (s : State), s.phase = .idle → s.key.extractLsb' 32 16 ≠ 0#16 →
    exec (.ddec v) s = .next { s with done := true, err := .keyWidth }) ∧
  (∀ (v : Variant) (k1 k2 x : Word), ddecN v k1 k2 (dencN v k1 k2 x) = maskN v x) ∧
  ddecN .v16 0x4AF4#16 0xA73B#16 0xD8E9#16 = 0x4142#16

/-- R81: TENC2. -/
def Obligations.TencTwoKeyEncryptsDecryptsEncrypts : Prop :=
  encode (.tenc2 .v16) = 0x0013#16 ∧ encode (.tenc2 .v8) = 0x0053#16 ∧
  (∀ k : Key, plan 0x3#4 0b01#2 k =
    [⟨some .encrypt, k.extractLsb' 16 16⟩, ⟨some .decrypt, k.extractLsb' 0 16⟩, ⟨some .encrypt, k.extractLsb' 16 16⟩]) ∧
  (∀ (v : Variant) (s : State), s.phase = .idle → s.key.extractLsb' 32 16 = 0#16 →
    ∃ t y, exec (.tenc2 v) s = .next t ∧
      y = encN v (decN v (encN v s.din (keyMid s.key)) (keyLow s.key)) (keyMid s.key) ∧
      t = { s with st := maskN v s.din, opl := 0x3#4, cml := 0b01#2, vl := v, stage := 0, phase := .start, done := false, err := .ok } ∧
      CompletesIn (3 * stageSteps v) t { s with
        st := y, dout := y
        rk0 := (expand v (keyMid s.key)).rk0, rk1 := (expand v (keyMid s.key)).rk1, rk2 := (expand v (keyMid s.key)).rk2
        opl := 0x3#4, cml := 0b01#2, vl := v, stage := 0, phase := .idle, done := true, err := .ok }) ∧
  (∀ (v : Variant) (s : State), s.phase = .idle → s.key.extractLsb' 32 16 ≠ 0#16 →
    exec (.tenc2 v) s = .next { s with done := true, err := .keyWidth }) ∧
  (∀ (v : Variant) (k x : Word), tenc2N v k k x = encN v x k) ∧
  encN .v16 0x4142#16 0x4AF4#16 = 0x8AD0#16 ∧ decN .v16 0x8AD0#16 0xA73B#16 = 0x6820#16 ∧
  tenc2N .v16 0x4AF4#16 0xA73B#16 0x4142#16 = 0xC5AA#16

/-- R82: TDEC2. -/
def Obligations.TdecTwoKeyDecryptsEncryptsDecrypts : Prop :=
  encode (.tdec2 .v16) = 0x0014#16 ∧ encode (.tdec2 .v8) = 0x0054#16 ∧
  (∀ k : Key, plan 0x4#4 0b01#2 k =
    [⟨some .decrypt, k.extractLsb' 16 16⟩, ⟨some .encrypt, k.extractLsb' 0 16⟩, ⟨some .decrypt, k.extractLsb' 16 16⟩]) ∧
  (∀ (v : Variant) (s : State), s.phase = .idle → s.key.extractLsb' 32 16 = 0#16 →
    ∃ t y, exec (.tdec2 v) s = .next t ∧
      y = decN v (encN v (decN v s.din (keyMid s.key)) (keyLow s.key)) (keyMid s.key) ∧
      t = { s with st := maskN v s.din, opl := 0x4#4, cml := 0b01#2, vl := v, stage := 0, phase := .start, done := false, err := .ok } ∧
      CompletesIn (3 * stageSteps v) t { s with
        st := y, dout := y
        rk0 := (expand v (keyMid s.key)).rk0, rk1 := (expand v (keyMid s.key)).rk1, rk2 := (expand v (keyMid s.key)).rk2
        opl := 0x4#4, cml := 0b01#2, vl := v, stage := 0, phase := .idle, done := true, err := .ok }) ∧
  (∀ (v : Variant) (s : State), s.phase = .idle → s.key.extractLsb' 32 16 ≠ 0#16 →
    exec (.tdec2 v) s = .next { s with done := true, err := .keyWidth }) ∧
  (∀ (v : Variant) (k x : Word), tdec2N v k k x = decN v x k) ∧
  tdec2N .v16 0x4AF4#16 0xA73B#16 0xC5AA#16 = 0x4142#16

/-- R83: TENC3. -/
def Obligations.TencThreeKeyEncryptsDecryptsEncrypts : Prop :=
  encode (.tenc3 .v16) = 0x0023#16 ∧ encode (.tenc3 .v8) = 0x0063#16 ∧
  (∀ k : Key, plan 0x3#4 0b10#2 k =
    [⟨some .encrypt, k.extractLsb' 32 16⟩, ⟨some .decrypt, k.extractLsb' 16 16⟩, ⟨some .encrypt, k.extractLsb' 0 16⟩]) ∧
  (∀ (v : Variant) (s : State), s.phase = .idle →
    ∃ t y, exec (.tenc3 v) s = .next t ∧
      y = encN v (decN v (encN v s.din (keyHigh s.key)) (keyMid s.key)) (keyLow s.key) ∧
      t = { s with st := maskN v s.din, opl := 0x3#4, cml := 0b10#2, vl := v, stage := 0, phase := .start, done := false, err := .ok } ∧
      CompletesIn (3 * stageSteps v) t { s with
        st := y, dout := y
        rk0 := (expand v (keyLow s.key)).rk0, rk1 := (expand v (keyLow s.key)).rk1, rk2 := (expand v (keyLow s.key)).rk2
        opl := 0x3#4, cml := 0b10#2, vl := v, stage := 0, phase := .idle, done := true, err := .ok }) ∧
  (∀ x : Word, tenc3N .v16 0xFFFF#16 0xFFFF#16 0xFFFF#16 x = encN .v16 x 0xFFFF#16) ∧
  tenc3N .v16 0xFFFF#16 0xFFFF#16 0xFFFF#16 0x4142#16 = 0xBE54#16 ∧
  encN .v16 0x4142#16 0x4AF4#16 = 0x8AD0#16 ∧ decN .v16 0x8AD0#16 0xA73B#16 = 0x6820#16 ∧
  tenc3N .v16 0x4AF4#16 0xA73B#16 0x2D55#16 0x4142#16 = 0xDEF8#16

/-- R84: TDEC3. -/
def Obligations.TdecThreeKeyDecryptsEncryptsDecrypts : Prop :=
  encode (.tdec3 .v16) = 0x0024#16 ∧ encode (.tdec3 .v8) = 0x0064#16 ∧
  (∀ k : Key, plan 0x4#4 0b10#2 k =
    [⟨some .decrypt, k.extractLsb' 0 16⟩, ⟨some .encrypt, k.extractLsb' 16 16⟩, ⟨some .decrypt, k.extractLsb' 32 16⟩]) ∧
  (∀ (v : Variant) (s : State), s.phase = .idle →
    ∃ t y, exec (.tdec3 v) s = .next t ∧
      y = decN v (encN v (decN v s.din (keyLow s.key)) (keyMid s.key)) (keyHigh s.key) ∧
      t = { s with st := maskN v s.din, opl := 0x4#4, cml := 0b10#2, vl := v, stage := 0, phase := .start, done := false, err := .ok } ∧
      CompletesIn (3 * stageSteps v) t { s with
        st := y, dout := y
        rk0 := (expand v (keyHigh s.key)).rk0, rk1 := (expand v (keyHigh s.key)).rk1, rk2 := (expand v (keyHigh s.key)).rk2
        opl := 0x4#4, cml := 0b10#2, vl := v, stage := 0, phase := .idle, done := true, err := .ok }) ∧
  (∀ (v : Variant) (k1 k2 k3 x : Word), tdec3N v k1 k2 k3 (tenc3N v k1 k2 k3 x) = maskN v x) ∧
  tdec3N .v16 0x4AF4#16 0xA73B#16 0x2D55#16 0xDEF8#16 = 0x4142#16

/-! ## The CBC commands -/

/-- R87: CBCENC. -/
def Obligations.CbcencEncryptsAndChains : Prop :=
  encode (.cbcenc .v16) = 0x0005#16 ∧ encode (.cbcenc .v8) = 0x0045#16 ∧
  (∀ k : Key, plan 0x5#4 0b00#2 k = [⟨some .encrypt, k.extractLsb' 0 16⟩]) ∧
  (∀ (v : Variant) (s : State), s.phase = .idle → s.key.extractLsb' 16 32 = 0#32 →
    ∃ t y, exec (.cbcenc v) s = .next t ∧ y = encN v (s.din ^^^ s.chain) (keyLow s.key) ∧
      t = { s with st := maskN v (s.din ^^^ s.chain), opl := 0x5#4, cml := 0b00#2, vl := v, stage := 0, phase := .start
                   done := false, err := .ok } ∧
      CompletesIn (stageSteps v) t { s with
        st := y, dout := y, chain := y
        rk0 := (expand v (keyLow s.key)).rk0, rk1 := (expand v (keyLow s.key)).rk1, rk2 := (expand v (keyLow s.key)).rk2
        opl := 0x5#4, cml := 0b00#2, vl := v, stage := 0, phase := .idle, done := true, err := .ok }) ∧
  (∀ (w : Word) (s : State), s.phase = .idle → fieldOp w = 0x5#4 → fieldCm w ≠ 0b00#2 ∨ fieldRsv w ≠ 0#9 →
    commandWrite w s = .next { s with done := true, err := .illegal }) ∧
  (∀ (v : Variant) (s : State), s.phase = .idle → s.key.extractLsb' 16 32 ≠ 0#32 →
    exec (.cbcenc v) s = .next { s with done := true, err := .keyWidth }) ∧
  (∀ (v : Variant) (s : State), s.phase ≠ .idle → exec (.cbcenc v) s = .next { s with wovr := true }) ∧
  (∀ b c k : Word, encN .v8 (b ^^^ c) k = encN .v8 ((b &&& 0x00FF#16) ^^^ (c &&& 0x00FF#16)) k ∧
    (encN .v8 (b ^^^ c) k).extractLsb' 8 8 = 0#8) ∧
  (∀ (v : Variant) (b k : Word), encN v (b ^^^ 0x0000#16) k = encN v b k) ∧
  encN .v16 (0x4142#16 ^^^ 0x1F2E#16) 0x4AF4#16 = 0x868B#16

/-- R88: CBCDEC, DOUT computed from the old CHAIN. -/
def Obligations.CbcdecDecryptsAndChains : Prop :=
  encode (.cbcdec .v16) = 0x0006#16 ∧ encode (.cbcdec .v8) = 0x0046#16 ∧
  (∀ k : Key, plan 0x6#4 0b00#2 k = [⟨some .decrypt, k.extractLsb' 0 16⟩]) ∧
  (∀ (v : Variant) (s : State), s.phase = .idle → s.key.extractLsb' 16 32 = 0#32 →
    ∃ t, exec (.cbcdec v) s = .next t ∧
      t = { s with st := maskN v s.din, opl := 0x6#4, cml := 0b00#2, vl := v, stage := 0, phase := .start, done := false, err := .ok } ∧
      CompletesIn (stageSteps v) t { s with
        st := decN v s.din (keyLow s.key), dout := decN v s.din (keyLow s.key) ^^^ maskN v s.chain, chain := maskN v s.din
        rk0 := (expand v (keyLow s.key)).rk0, rk1 := (expand v (keyLow s.key)).rk1, rk2 := (expand v (keyLow s.key)).rk2
        opl := 0x6#4, cml := 0b00#2, vl := v, stage := 0, phase := .idle, done := true, err := .ok }) ∧
  (∀ (w : Word) (s : State), s.phase = .idle → fieldOp w = 0x6#4 → fieldCm w ≠ 0b00#2 ∨ fieldRsv w ≠ 0#9 →
    commandWrite w s = .next { s with done := true, err := .illegal }) ∧
  (∀ (v : Variant) (s : State), s.phase = .idle → s.key.extractLsb' 16 32 ≠ 0#32 →
    exec (.cbcdec v) s = .next { s with done := true, err := .keyWidth }) ∧
  (∀ (v : Variant) (s : State), s.phase ≠ .idle → exec (.cbcdec v) s = .next { s with wovr := true }) ∧
  (∀ (v : Variant) (c k : Word), decN v c k ^^^ maskN v 0x0000#16 = decN v c k) ∧
  decN .v16 0x868B#16 0x4AF4#16 ^^^ 0x1F2E#16 = 0x4142#16

/-! ## The cipher -/

/-- R62: decryption inverts encryption and encryption inverts decryption, in both variants, for every block and key. -/
def Obligations.BlockCipherRoundTrips : Prop :=
  (∀ b k : Word, dec16 (enc16 b k) k = b ∧ enc16 (dec16 b k) k = b) ∧
  (∀ (b : Byte) (k : Word), dec8 (enc8 b k) k = b ∧ enc8 (dec8 b k) k = b) ∧
  (∀ k : Word, Function.Bijective (fun b : Word => enc16 b k)) ∧ (∀ k : Word, Function.Bijective (fun b : Byte => enc8 b k))

/-- R77: each cascade's decryption inverts its encryption and the reverse, and the degenerate keys. -/
def Obligations.CascadesRoundTrip : Prop :=
  ∀ (v : Variant) (k1 k2 k3 x : Word),
    ddecN v k1 k2 (dencN v k1 k2 x) = maskN v x ∧ dencN v k1 k2 (ddecN v k1 k2 x) = maskN v x ∧
    tdec2N v k1 k2 (tenc2N v k1 k2 x) = maskN v x ∧ tenc2N v k1 k2 (tdec2N v k1 k2 x) = maskN v x ∧
    tdec3N v k1 k2 k3 (tenc3N v k1 k2 k3 x) = maskN v x ∧ tenc3N v k1 k2 k3 (tdec3N v k1 k2 k3 x) = maskN v x ∧
    tenc2N v k1 k1 x = encN v x k1 ∧ tenc3N v k1 k1 k3 x = encN v x k3 ∧ tenc3N v k1 k2 k2 x = encN v x k1

/-- From R52 and R53: Mix is linear, its square is multiplication by 2, and InvMix is its inverse on both sides; so Mix is no involution (C1). -/
def Obligations.InverseDiffusionInvertsDiffusion : Prop :=
  (∀ x : Word, invMix (mix x) = x ∧ mix (invMix x) = x) ∧
  (∀ a b : Word, mix (a ^^^ b) = mix a ^^^ mix b) ∧ mix 0x0000#16 = 0x0000#16 ∧
  (∀ x : Word, mix (mix x) =
    gmul 0x2#4 (x.extractLsb' 12 4) ++ gmul 0x2#4 (x.extractLsb' 8 4) ++ gmul 0x2#4 (x.extractLsb' 4 4) ++ gmul 0x2#4 (x.extractLsb' 0 4)) ∧
  (∀ x : Word, mix (mix x) = x ↔ x = 0x0000#16)

/-- From R46, R48, R51 and R54: the inverses of substitution, permutation and key mixing (diffusion's is InverseDiffusionInvertsDiffusion). -/
def Obligations.SubstitutionPermutationAndKeyMixingAreInvertible : Prop :=
  (∀ x : Word, invSubNib16 (subNib16 x) = x ∧ subNib16 (invSubNib16 x) = x ∧ perm16 (perm16 x) = x) ∧
  (∀ x : Byte, invSubNib8 (subNib8 x) = x ∧ subNib8 (invSubNib8 x) = x ∧ perm8 (perm8 x) = x) ∧
  (∀ x k : Word, keyMix16 (keyMix16 x k) k = x) ∧ (∀ x k : Byte, keyMix8 (keyMix8 x k) k = x)

/-- From R50: the laws of GF(2^4) multiplication. -/
def Obligations.FieldMultiplicationLaws : Prop :=
  (∀ a b : Nibble, gmul a b = gmul b a) ∧ (∀ a b c : Nibble, gmul (gmul a b) c = gmul a (gmul b c)) ∧
  (∀ a b c : Nibble, gmul a (b ^^^ c) = gmul a b ^^^ gmul a c) ∧ (∀ a : Nibble, gmul 0x1#4 a = a ∧ gmul 0x0#4 a = 0x0#4) ∧
  (∀ a : Nibble, a ≠ 0x0#4 → ∃ b, gmul a b = 0x1#4 ∧ ∀ c, gmul a c = 0x1#4 → c = b)

/-- From R57 and the test vectors' S6: RK0 is the key, so distinct keys have distinct V16 schedules; and RK1 is R57's formula in nibbles. -/
def Obligations.KeyScheduleKeepsTheKey : Prop :=
  (∀ k : Word, (expand16 k).rk0 = k) ∧ (∀ k k' : Word, expand16 k = expand16 k' → k = k') ∧
  (∀ k : Word, (expand16 k).rk1.extractLsb' 8 8 =
    k.extractLsb' 8 8 ^^^ 0x80#8 ^^^ (sbox (k.extractLsb' 4 4) ++ sbox (k.extractLsb' 0 4))) ∧
  (∀ k : Word, (expand8 k).rk2 = (expand16 k).rk1.extractLsb' 8 8) ∧
  expand16 0xA73B#16 = ⟨0xA73B#16, 0x94AF#16, 0xA30C#16⟩ ∧ expand16 0x8000#16 = ⟨0x8000#16, 0x9999#16, 0x8B12#16⟩

/-! ## CBC -/

/-- R90: CBC decryption inverts CBC encryption on every sequence of N-bit blocks. -/
def Obligations.CbcRoundTrips : Prop :=
  ∀ (v : Variant) (k iv : Word) (bs : List Word), (∀ b ∈ bs, maskN v b = b) → cbcDecrypt v k iv (cbcEncrypt v k iv bs) = bs

/-- R91: the shape of the corruption when ciphertext block i is replaced by `c[i] ^ e`. `prev` is the chain value block i meets. -/
def Obligations.CbcTamperingPropagatesOnce : Prop :=
  ∀ (v : Variant) (k iv e c : Word) (before after : List Word), maskN v e = e → e ≠ 0x0000#16 →
    ∃ (p q prev : Word) (ps qs : List Word),
      ps.length = before.length ∧
      prev = before.foldl (fun _ x => maskN v x) iv ∧
      cbcDecrypt v k iv (before ++ c :: after) = ps ++ p :: qs ∧
      q = maskN v (decN v (c ^^^ e) k ^^^ prev) ∧ q ≠ p ∧
      (after = [] → cbcDecrypt v k iv (before ++ (c ^^^ e) :: after) = ps ++ [q]) ∧
      (∀ (p' : Word) (rest : List Word), qs = p' :: rest →
        cbcDecrypt v k iv (before ++ (c ^^^ e) :: after) = ps ++ q :: (p' ^^^ e) :: rest)

/-- From R89: the host's chain traversal, run by the machine from any idle state, reads back the sequence cbcEncrypt gives, and with CBCDEC the
sequence cbcDecrypt gives; CHAIN ends at the last ciphertext block. How POLL and the sequencer interleave is the model's choice
(notes/assumptions/3.md). -/
def Obligations.CbcTraversalComputesCbc : Prop :=
  ∀ (v : Variant) (k iv : Word) (bs : List Word) (s : State), s.phase = .idle → s.readLog = [] →
    (s.script = cbcTraversal (.cbcenc v) k iv bs →
      ∃ n u, runSteps n s = .next u ∧ u.script = [] ∧ u.phase = .idle ∧
        u.doutReads = cbcEncrypt v k iv bs ∧ u.chain = (cbcEncrypt v k iv bs).getLastD iv) ∧
    (s.script = cbcTraversal (.cbcdec v) k iv bs →
      ∃ n u, runSteps n s = .next u ∧ u.script = [] ∧ u.phase = .idle ∧
        u.doutReads = cbcDecrypt v k iv bs ∧ u.chain = bs.foldl (fun _ c => maskN v c) iv)

/-! ## The sequencer and whole-machine rules -/

/-- From R64: a step is enabled exactly outside IDLE, and the next phase depends on phase, stage, OPL, CML and VL alone. -/
def Obligations.PhaseWalkIgnoresData : Prop :=
  (∀ s : State, s.phase = .idle → sequencerStep s = .next s) ∧
  (∀ s : State, ControlInv s → s.phase ≠ .idle → ∃ t, sequencerStep s = .next t ∧ t.phase ≠ s.phase) ∧
  (∀ s s' t : State, s.phase = s'.phase → s.stage = s'.stage → s.opl = s'.opl → s.cml = s'.cml → s.vl = s'.vl →
    sequencerStep s = .next t → ∃ t', sequencerStep s' = .next t' ∧
      t.phase = t'.phase ∧ t.stage = t'.stage ∧ t.opl = t'.opl ∧ t.cml = t'.cml ∧ t.vl = t'.vl)

/-- R67, R69, R70: the transitions at START and SDONE, and what completion writes for each OPL. -/
def Obligations.StageBoundariesOfTheSequencer : Prop :=
  ∀ (s : State) (stg : Stage), s.currentStage = some stg →
    (s.phase = .start → sequencerStep s = .next { s with
      rk0 := (expand s.vl stg.subkey).rk0, rk1 := (expand s.vl stg.subkey).rk1, rk2 := (expand s.vl stg.subkey).rk2
      phase := if s.opl = 0x7#4 then .sdone else .run 0 }) ∧
    (s.phase = .sdone → s.stage.val + 1 < s.plan.length →
      sequencerStep s = .next { s with stage := s.stage + 1, phase := .start }) ∧
    (s.phase = .sdone → s.plan.length ≤ s.stage.val + 1 →
      (s.opl = 0x1#4 ∨ s.opl = 0x2#4 ∨ s.opl = 0x3#4 ∨ s.opl = 0x4#4 →
        sequencerStep s = .next { s with dout := maskN s.vl s.st, done := true, err := .ok, stage := 0, phase := .idle }) ∧
      (s.opl = 0x5#4 → sequencerStep s = .next { s with
        dout := maskN s.vl s.st, chain := maskN s.vl s.st, done := true, err := .ok, stage := 0, phase := .idle }) ∧
      (s.opl = 0x6#4 → sequencerStep s = .next { s with
        dout := maskN s.vl (s.st ^^^ s.chain), chain := maskN s.vl s.din, done := true, err := .ok, stage := 0, phase := .idle }) ∧
      (s.opl = 0x7#4 → sequencerStep s = .next { s with done := true, err := .ok, stage := 0, phase := .idle }))

/-- From R63 and R68: the round steps of a stage, run in order on ST with RK0-RK2 the schedule of k, compute Enc_N or Dec_N; RUN(i) applies the i-th
and moves on. -/
def Obligations.RoundSequencesComputeTheCipher : Prop :=
  (∀ (v : Variant) (k : Word) (s : State), s.vl = v → (⟨s.rk0, s.rk1, s.rk2⟩ : Schedule 16) = expand v k →
    ((seq .encrypt v).foldl (fun (x : State) r => { x with st := r.apply x }) s).st = encN v s.st k ∧
    ((seq .decrypt v).foldl (fun (x : State) r => { x with st := r.apply x }) s).st = decN v s.st k) ∧
  (∀ (s : State) (i : Fin 8) (dir : Dir) (k : Word) (r : RoundStep), s.phase = .run i → s.currentStage = some ⟨some dir, k⟩ →
    (seq dir s.vl)[i.val]? = some r →
    sequencerStep s = .next { s with
      st := r.apply s
      phase := if h : i.val + 1 < (seq dir s.vl).length ∧ i.val + 1 < 8 then .run ⟨i.val + 1, h.2⟩ else .sdone }) ∧
  (∀ dir : Dir, (seq dir .v16).length = 8 ∧ (seq dir .v8).length = 7)

/-- R119: the step counts, and that every accepted command completes in exactly that many steps; a rejection and a dropped write leave the
sequencer's phase where it was. -/
def Obligations.AcceptedCommandsCompleteOnTime : Prop :=
  (∀ i : Instr, ∀ s t : State, s.phase = .idle → exec i s = .next t → t.phase ≠ .idle →
    ∃ u, CompletesIn (stepCount i) t u ∧ u.done = true ∧ u.err = .ok) ∧
  (∀ i : Instr, ∀ s : State, ∃ t, exec i s = .next t ∧ (t.phase ≠ s.phase → s.phase = .idle ∧ t.phase = .start)) ∧
  (∀ v : Variant, ∀ i ∈ [Instr.enc v, .dec v, .cbcenc v, .cbcdec v], stepCount i = if v = .v16 then 10 else 9) ∧
  (∀ v : Variant, ∀ i ∈ [Instr.denc v, .ddec v], stepCount i = if v = .v16 then 20 else 18) ∧
  (∀ v : Variant, ∀ i ∈ [Instr.tenc2 v, .tdec2 v, .tenc3 v, .tdec3 v], stepCount i = if v = .v16 then 30 else 27) ∧
  (∀ v : Variant, stepCount (.kexp v) = 2)

/-- From R43: POLL ends, from any state of the invariant, and its last read is a STATUS with BUSY = 0. One sequencer step falls between two
reads: the model's choice (notes/assumptions/3.md). -/
def Obligations.PollEnds : Prop :=
  ∀ (s : State) (rest : List Event), ControlInv s → s.script = .poll :: rest →
    ∃ n ≤ 61, ∃ u, runSteps n s = .next u ∧ u.script = rest ∧ u.phase = .idle ∧
      u.readLog.head? = some (0x1#4, u.hostRead 0x1#4) ∧ (u.hostRead 0x1#4).getLsbD 0 = false

/-- From R43: what the other pseudo-instructions leave when they run from an idle block. -/
def Obligations.HostLinesDoWhatTheyAbbreviate : Prop :=
  (∀ (s : State) (k : Key) (rest : List Event), s.phase = .idle → s.script = HostLine.events (.wrkey k) ++ rest →
    runSteps 3 s = .next { s with key := k, script := rest }) ∧
  (∀ (s : State) (rest : List Event), s.script = HostLine.events .clr ++ rest →
    runSteps 1 s = .next { s with done := false, err := .ok, wovr := false, script := rest }) ∧
  (∀ (s : State) (i : Instr) (rest : List Event), s.script = HostLine.events (.cmd i) ++ rest →
    runSteps 1 s = exec i { s with script := rest })

/-- From R10, R104 and U12: host reads and writes in any interleaving with the sequencer steps of an accepted command change neither its results
nor any register of the block except WOVR. -/
def Obligations.InterleavingDoesNotChangeResults : Prop :=
  ∀ (i : Instr) (s t : State) (es rest : List Event), s.phase = .idle → exec i s = .next t → t.phase ≠ .idle →
    (∀ e ∈ es, e.inside = true) → es.count .sequencer + 1 = stepCount i →
    ∃ d u, runSequencer (stepCount i) t = .next d ∧
      runSteps (es.length + 1) { t with script := es ++ .sequencer :: rest } = .next u ∧
      u = { d with script := rest, readLog := u.readLog, wovr := u.wovr }

/-- From R13, R14, R15 and R21: DOUT changes only at the completion of a command that produces a block, CHAIN only by an idle host write or the
completion of a CBC command, RK0-RK2 only at START; reset apart. -/
def Obligations.ResultRegistersChangeOnlyByRule : Prop :=
  ∀ (e : Event) (s t : State), occur e s = .next t → e ≠ .reset →
    (t.dout ≠ s.dout → e = .sequencer ∧ s.phase = .sdone ∧ t.phase = .idle ∧ t.done = true ∧ s.opl ≠ 0x7#4) ∧
    (t.chain ≠ s.chain →
      (s.phase = .idle ∧ ∃ v, e = .write 0x7#4 v ∧ t.chain = v) ∨
      (e = .sequencer ∧ s.phase = .sdone ∧ t.phase = .idle ∧ t.done = true ∧ (s.opl = 0x5#4 ∨ s.opl = 0x6#4))) ∧
    (t.rk0 ≠ s.rk0 ∨ t.rk1 ≠ s.rk1 ∨ t.rk2 ≠ s.rk2 → e = .sequencer ∧ s.phase = .start)

/-- From R18 and R64: only an accepted command takes the block out of IDLE, only a completion or reset takes it back, and host accesses never move
`phase` otherwise. -/
def Obligations.PhaseMovesOnlyByRule : Prop :=
  ∀ (e : Event) (s t : State), occur e s = .next t → t.phase ≠ s.phase →
    e = .reset ∨ (e = .sequencer ∧ s.phase ≠ .idle ∧ (t.phase = .idle → s.phase = .sdone ∧ t.done = true)) ∨
    (∃ w i, e = .write 0x0#4 w ∧ decode w = .ok i ∧ s.phase = .idle ∧ t.phase = .start ∧ t.stage = 0)

/-- The invariant holds right after reset. -/
def Obligations.ResetMeetsTheControlInvariant : Prop := ControlInv State.reset

/-- From R16, R17, R18, R21, R65 and R101: every step keeps the invariant of the control state, from every state that meets it. -/
def Obligations.StepKeepsTheControlInvariant : Prop := ∀ s t : State, ControlInv s → step s = .next t → ControlInv t

/-- From R99: from every state that meets the invariant, a step answers a next state, unless the event is an access the interface does not have:
no control state is stuck. -/
def Obligations.StepNeverStops : Prop :=
  ∀ s : State, ControlInv s → (∀ (k : BadAccess) (rest : List Event), s.script ≠ .badAccess k :: rest) → ∃ t, step s = .next t

/-- From R16 and R116: reads while BUSY = 1, in a state of the invariant: STATUS has DONE = 0 and ERR = 0, and past START the round keys are the
current stage's. -/
def Obligations.BusyReadsAreDefined : Prop :=
  ∀ s : State, ControlInv s → s.phase ≠ .idle →
    (s.hostRead 0x1#4 = if s.wovr then 0x0011#16 else 0x0001#16) ∧
    (s.phase ≠ .start → ∃ stg, s.currentStage = some stg ∧
      s.hostRead 0x8#4 = (expand s.vl stg.subkey).rk0 ∧ s.hostRead 0x9#4 = (expand s.vl stg.subkey).rk1 ∧
      s.hostRead 0xA#4 = (expand s.vl stg.subkey).rk2)
end

