-- ==== Sys2Proof/Config.lean ====
section
/-! DEFINITION. The two parameters the spec leaves OPEN (rules R7, R22, R120; U10, U11). No rule depends on either, so no definition of the
model reads them; being opaque, neither has a value a proof could use. -/

namespace Sys2Proof

/-- `P_STEP_CYCLES`: clock cycles per sequencer step, an integer of at least 1 (R7, R120). -/
opaque Config.pStepCycles : ℕ+

/-- `P_BASE`: where the register space stands in the platform's system map (R22). -/
opaque Config.pBase : Nat

end Sys2Proof
end

