-- ==== Sys2Proof/Laws/State.lean ====
section
/-! SUPPORT. One lemma per field per named update of State: what the update writes, and that every other field is as before. -/

namespace Sys2Proof.Machine

variable (s : State)

@[simp] theorem State.dropWrite_din : (s.dropWrite).din = s.din := rfl
@[simp] theorem State.dropWrite_dout : (s.dropWrite).dout = s.dout := rfl
@[simp] theorem State.dropWrite_key : (s.dropWrite).key = s.key := rfl
@[simp] theorem State.dropWrite_chain : (s.dropWrite).chain = s.chain := rfl
@[simp] theorem State.dropWrite_rk0 : (s.dropWrite).rk0 = s.rk0 := rfl
@[simp] theorem State.dropWrite_rk1 : (s.dropWrite).rk1 = s.rk1 := rfl
@[simp] theorem State.dropWrite_rk2 : (s.dropWrite).rk2 = s.rk2 := rfl
@[simp] theorem State.dropWrite_done : (s.dropWrite).done = s.done := rfl
@[simp] theorem State.dropWrite_err : (s.dropWrite).err = s.err := rfl
@[simp] theorem State.dropWrite_wovr : (s.dropWrite).wovr = true := rfl
@[simp] theorem State.dropWrite_st : (s.dropWrite).st = s.st := rfl
@[simp] theorem State.dropWrite_phase : (s.dropWrite).phase = s.phase := rfl
@[simp] theorem State.dropWrite_stage : (s.dropWrite).stage = s.stage := rfl
@[simp] theorem State.dropWrite_opl : (s.dropWrite).opl = s.opl := rfl
@[simp] theorem State.dropWrite_cml : (s.dropWrite).cml = s.cml := rfl
@[simp] theorem State.dropWrite_vl : (s.dropWrite).vl = s.vl := rfl
@[simp] theorem State.dropWrite_script : (s.dropWrite).script = s.script := rfl
@[simp] theorem State.dropWrite_readLog : (s.dropWrite).readLog = s.readLog := rfl

@[simp] theorem State.reject_din (c : ErrCode) : (s.reject c).din = s.din := rfl
@[simp] theorem State.reject_dout (c : ErrCode) : (s.reject c).dout = s.dout := rfl
@[simp] theorem State.reject_key (c : ErrCode) : (s.reject c).key = s.key := rfl
@[simp] theorem State.reject_chain (c : ErrCode) : (s.reject c).chain = s.chain := rfl
@[simp] theorem State.reject_rk0 (c : ErrCode) : (s.reject c).rk0 = s.rk0 := rfl
@[simp] theorem State.reject_rk1 (c : ErrCode) : (s.reject c).rk1 = s.rk1 := rfl
@[simp] theorem State.reject_rk2 (c : ErrCode) : (s.reject c).rk2 = s.rk2 := rfl
@[simp] theorem State.reject_done (c : ErrCode) : (s.reject c).done = true := rfl
@[simp] theorem State.reject_err (c : ErrCode) : (s.reject c).err = c := rfl
@[simp] theorem State.reject_wovr (c : ErrCode) : (s.reject c).wovr = s.wovr := rfl
@[simp] theorem State.reject_st (c : ErrCode) : (s.reject c).st = s.st := rfl
@[simp] theorem State.reject_phase (c : ErrCode) : (s.reject c).phase = s.phase := rfl
@[simp] theorem State.reject_stage (c : ErrCode) : (s.reject c).stage = s.stage := rfl
@[simp] theorem State.reject_opl (c : ErrCode) : (s.reject c).opl = s.opl := rfl
@[simp] theorem State.reject_cml (c : ErrCode) : (s.reject c).cml = s.cml := rfl
@[simp] theorem State.reject_vl (c : ErrCode) : (s.reject c).vl = s.vl := rfl
@[simp] theorem State.reject_script (c : ErrCode) : (s.reject c).script = s.script := rfl
@[simp] theorem State.reject_readLog (c : ErrCode) : (s.reject c).readLog = s.readLog := rfl

@[simp] theorem State.accept_din (op : BitVec 4) (cm : BitVec 2) (v : Variant) (b : Word) : (s.accept op cm v b).din = s.din := rfl
@[simp] theorem State.accept_dout (op : BitVec 4) (cm : BitVec 2) (v : Variant) (b : Word) : (s.accept op cm v b).dout = s.dout := rfl
@[simp] theorem State.accept_key (op : BitVec 4) (cm : BitVec 2) (v : Variant) (b : Word) : (s.accept op cm v b).key = s.key := rfl
@[simp] theorem State.accept_chain (op : BitVec 4) (cm : BitVec 2) (v : Variant) (b : Word) : (s.accept op cm v b).chain = s.chain := rfl
@[simp] theorem State.accept_rk0 (op : BitVec 4) (cm : BitVec 2) (v : Variant) (b : Word) : (s.accept op cm v b).rk0 = s.rk0 := rfl
@[simp] theorem State.accept_rk1 (op : BitVec 4) (cm : BitVec 2) (v : Variant) (b : Word) : (s.accept op cm v b).rk1 = s.rk1 := rfl
@[simp] theorem State.accept_rk2 (op : BitVec 4) (cm : BitVec 2) (v : Variant) (b : Word) : (s.accept op cm v b).rk2 = s.rk2 := rfl
@[simp] theorem State.accept_done (op : BitVec 4) (cm : BitVec 2) (v : Variant) (b : Word) : (s.accept op cm v b).done = false := rfl
@[simp] theorem State.accept_err (op : BitVec 4) (cm : BitVec 2) (v : Variant) (b : Word) : (s.accept op cm v b).err = .ok := rfl
@[simp] theorem State.accept_wovr (op : BitVec 4) (cm : BitVec 2) (v : Variant) (b : Word) : (s.accept op cm v b).wovr = s.wovr := rfl
@[simp] theorem State.accept_st (op : BitVec 4) (cm : BitVec 2) (v : Variant) (b : Word) : (s.accept op cm v b).st = b := rfl
@[simp] theorem State.accept_phase (op : BitVec 4) (cm : BitVec 2) (v : Variant) (b : Word) : (s.accept op cm v b).phase = .start := rfl
@[simp] theorem State.accept_stage (op : BitVec 4) (cm : BitVec 2) (v : Variant) (b : Word) : (s.accept op cm v b).stage = 0 := rfl
@[simp] theorem State.accept_opl (op : BitVec 4) (cm : BitVec 2) (v : Variant) (b : Word) : (s.accept op cm v b).opl = op := rfl
@[simp] theorem State.accept_cml (op : BitVec 4) (cm : BitVec 2) (v : Variant) (b : Word) : (s.accept op cm v b).cml = cm := rfl
@[simp] theorem State.accept_vl (op : BitVec 4) (cm : BitVec 2) (v : Variant) (b : Word) : (s.accept op cm v b).vl = v := rfl
@[simp] theorem State.accept_script (op : BitVec 4) (cm : BitVec 2) (v : Variant) (b : Word) : (s.accept op cm v b).script = s.script := rfl
@[simp] theorem State.accept_readLog (op : BitVec 4) (cm : BitVec 2) (v : Variant) (b : Word) : (s.accept op cm v b).readLog = s.readLog := rfl

@[simp] theorem State.clearDone_din : (s.clearDone).din = s.din := rfl
@[simp] theorem State.clearDone_dout : (s.clearDone).dout = s.dout := rfl
@[simp] theorem State.clearDone_key : (s.clearDone).key = s.key := rfl
@[simp] theorem State.clearDone_chain : (s.clearDone).chain = s.chain := rfl
@[simp] theorem State.clearDone_rk0 : (s.clearDone).rk0 = s.rk0 := rfl
@[simp] theorem State.clearDone_rk1 : (s.clearDone).rk1 = s.rk1 := rfl
@[simp] theorem State.clearDone_rk2 : (s.clearDone).rk2 = s.rk2 := rfl
@[simp] theorem State.clearDone_done : (s.clearDone).done = false := rfl
@[simp] theorem State.clearDone_err : (s.clearDone).err = .ok := rfl
@[simp] theorem State.clearDone_wovr : (s.clearDone).wovr = s.wovr := rfl
@[simp] theorem State.clearDone_st : (s.clearDone).st = s.st := rfl
@[simp] theorem State.clearDone_phase : (s.clearDone).phase = s.phase := rfl
@[simp] theorem State.clearDone_stage : (s.clearDone).stage = s.stage := rfl
@[simp] theorem State.clearDone_opl : (s.clearDone).opl = s.opl := rfl
@[simp] theorem State.clearDone_cml : (s.clearDone).cml = s.cml := rfl
@[simp] theorem State.clearDone_vl : (s.clearDone).vl = s.vl := rfl
@[simp] theorem State.clearDone_script : (s.clearDone).script = s.script := rfl
@[simp] theorem State.clearDone_readLog : (s.clearDone).readLog = s.readLog := rfl

@[simp] theorem State.clearWovr_din : (s.clearWovr).din = s.din := rfl
@[simp] theorem State.clearWovr_dout : (s.clearWovr).dout = s.dout := rfl
@[simp] theorem State.clearWovr_key : (s.clearWovr).key = s.key := rfl
@[simp] theorem State.clearWovr_chain : (s.clearWovr).chain = s.chain := rfl
@[simp] theorem State.clearWovr_rk0 : (s.clearWovr).rk0 = s.rk0 := rfl
@[simp] theorem State.clearWovr_rk1 : (s.clearWovr).rk1 = s.rk1 := rfl
@[simp] theorem State.clearWovr_rk2 : (s.clearWovr).rk2 = s.rk2 := rfl
@[simp] theorem State.clearWovr_done : (s.clearWovr).done = s.done := rfl
@[simp] theorem State.clearWovr_err : (s.clearWovr).err = s.err := rfl
@[simp] theorem State.clearWovr_wovr : (s.clearWovr).wovr = false := rfl
@[simp] theorem State.clearWovr_st : (s.clearWovr).st = s.st := rfl
@[simp] theorem State.clearWovr_phase : (s.clearWovr).phase = s.phase := rfl
@[simp] theorem State.clearWovr_stage : (s.clearWovr).stage = s.stage := rfl
@[simp] theorem State.clearWovr_opl : (s.clearWovr).opl = s.opl := rfl
@[simp] theorem State.clearWovr_cml : (s.clearWovr).cml = s.cml := rfl
@[simp] theorem State.clearWovr_vl : (s.clearWovr).vl = s.vl := rfl
@[simp] theorem State.clearWovr_script : (s.clearWovr).script = s.script := rfl
@[simp] theorem State.clearWovr_readLog : (s.clearWovr).readLog = s.readLog := rfl

@[simp] theorem State.loadSchedule_din (ks : Schedule 16) : (s.loadSchedule ks).din = s.din := rfl
@[simp] theorem State.loadSchedule_dout (ks : Schedule 16) : (s.loadSchedule ks).dout = s.dout := rfl
@[simp] theorem State.loadSchedule_key (ks : Schedule 16) : (s.loadSchedule ks).key = s.key := rfl
@[simp] theorem State.loadSchedule_chain (ks : Schedule 16) : (s.loadSchedule ks).chain = s.chain := rfl
@[simp] theorem State.loadSchedule_rk0 (ks : Schedule 16) : (s.loadSchedule ks).rk0 = ks.rk0 := rfl
@[simp] theorem State.loadSchedule_rk1 (ks : Schedule 16) : (s.loadSchedule ks).rk1 = ks.rk1 := rfl
@[simp] theorem State.loadSchedule_rk2 (ks : Schedule 16) : (s.loadSchedule ks).rk2 = ks.rk2 := rfl
@[simp] theorem State.loadSchedule_done (ks : Schedule 16) : (s.loadSchedule ks).done = s.done := rfl
@[simp] theorem State.loadSchedule_err (ks : Schedule 16) : (s.loadSchedule ks).err = s.err := rfl
@[simp] theorem State.loadSchedule_wovr (ks : Schedule 16) : (s.loadSchedule ks).wovr = s.wovr := rfl
@[simp] theorem State.loadSchedule_st (ks : Schedule 16) : (s.loadSchedule ks).st = s.st := rfl
@[simp] theorem State.loadSchedule_phase (ks : Schedule 16) : (s.loadSchedule ks).phase = s.phase := rfl
@[simp] theorem State.loadSchedule_stage (ks : Schedule 16) : (s.loadSchedule ks).stage = s.stage := rfl
@[simp] theorem State.loadSchedule_opl (ks : Schedule 16) : (s.loadSchedule ks).opl = s.opl := rfl
@[simp] theorem State.loadSchedule_cml (ks : Schedule 16) : (s.loadSchedule ks).cml = s.cml := rfl
@[simp] theorem State.loadSchedule_vl (ks : Schedule 16) : (s.loadSchedule ks).vl = s.vl := rfl
@[simp] theorem State.loadSchedule_script (ks : Schedule 16) : (s.loadSchedule ks).script = s.script := rfl
@[simp] theorem State.loadSchedule_readLog (ks : Schedule 16) : (s.loadSchedule ks).readLog = s.readLog := rfl

@[simp] theorem State.logRead_din (a : Addr) : (s.logRead a).din = s.din := rfl
@[simp] theorem State.logRead_dout (a : Addr) : (s.logRead a).dout = s.dout := rfl
@[simp] theorem State.logRead_key (a : Addr) : (s.logRead a).key = s.key := rfl
@[simp] theorem State.logRead_chain (a : Addr) : (s.logRead a).chain = s.chain := rfl
@[simp] theorem State.logRead_rk0 (a : Addr) : (s.logRead a).rk0 = s.rk0 := rfl
@[simp] theorem State.logRead_rk1 (a : Addr) : (s.logRead a).rk1 = s.rk1 := rfl
@[simp] theorem State.logRead_rk2 (a : Addr) : (s.logRead a).rk2 = s.rk2 := rfl
@[simp] theorem State.logRead_done (a : Addr) : (s.logRead a).done = s.done := rfl
@[simp] theorem State.logRead_err (a : Addr) : (s.logRead a).err = s.err := rfl
@[simp] theorem State.logRead_wovr (a : Addr) : (s.logRead a).wovr = s.wovr := rfl
@[simp] theorem State.logRead_st (a : Addr) : (s.logRead a).st = s.st := rfl
@[simp] theorem State.logRead_phase (a : Addr) : (s.logRead a).phase = s.phase := rfl
@[simp] theorem State.logRead_stage (a : Addr) : (s.logRead a).stage = s.stage := rfl
@[simp] theorem State.logRead_opl (a : Addr) : (s.logRead a).opl = s.opl := rfl
@[simp] theorem State.logRead_cml (a : Addr) : (s.logRead a).cml = s.cml := rfl
@[simp] theorem State.logRead_vl (a : Addr) : (s.logRead a).vl = s.vl := rfl
@[simp] theorem State.logRead_script (a : Addr) : (s.logRead a).script = s.script := rfl
@[simp] theorem State.logRead_readLog (a : Addr) : (s.logRead a).readLog = (a, s.hostRead a) :: s.readLog := rfl

@[simp] theorem State.popScript_din : (s.popScript).din = s.din := rfl
@[simp] theorem State.popScript_dout : (s.popScript).dout = s.dout := rfl
@[simp] theorem State.popScript_key : (s.popScript).key = s.key := rfl
@[simp] theorem State.popScript_chain : (s.popScript).chain = s.chain := rfl
@[simp] theorem State.popScript_rk0 : (s.popScript).rk0 = s.rk0 := rfl
@[simp] theorem State.popScript_rk1 : (s.popScript).rk1 = s.rk1 := rfl
@[simp] theorem State.popScript_rk2 : (s.popScript).rk2 = s.rk2 := rfl
@[simp] theorem State.popScript_done : (s.popScript).done = s.done := rfl
@[simp] theorem State.popScript_err : (s.popScript).err = s.err := rfl
@[simp] theorem State.popScript_wovr : (s.popScript).wovr = s.wovr := rfl
@[simp] theorem State.popScript_st : (s.popScript).st = s.st := rfl
@[simp] theorem State.popScript_phase : (s.popScript).phase = s.phase := rfl
@[simp] theorem State.popScript_stage : (s.popScript).stage = s.stage := rfl
@[simp] theorem State.popScript_opl : (s.popScript).opl = s.opl := rfl
@[simp] theorem State.popScript_cml : (s.popScript).cml = s.cml := rfl
@[simp] theorem State.popScript_vl : (s.popScript).vl = s.vl := rfl
@[simp] theorem State.popScript_script : (s.popScript).script = s.script.tail := rfl
@[simp] theorem State.popScript_readLog : (s.popScript).readLog = s.readLog := rfl

@[simp] theorem State.hostReset_din : (s.hostReset).din = State.reset.din := rfl
@[simp] theorem State.hostReset_dout : (s.hostReset).dout = State.reset.dout := rfl
@[simp] theorem State.hostReset_key : (s.hostReset).key = State.reset.key := rfl
@[simp] theorem State.hostReset_chain : (s.hostReset).chain = State.reset.chain := rfl
@[simp] theorem State.hostReset_rk0 : (s.hostReset).rk0 = State.reset.rk0 := rfl
@[simp] theorem State.hostReset_rk1 : (s.hostReset).rk1 = State.reset.rk1 := rfl
@[simp] theorem State.hostReset_rk2 : (s.hostReset).rk2 = State.reset.rk2 := rfl
@[simp] theorem State.hostReset_done : (s.hostReset).done = State.reset.done := rfl
@[simp] theorem State.hostReset_err : (s.hostReset).err = State.reset.err := rfl
@[simp] theorem State.hostReset_wovr : (s.hostReset).wovr = State.reset.wovr := rfl
@[simp] theorem State.hostReset_st : (s.hostReset).st = State.reset.st := rfl
@[simp] theorem State.hostReset_phase : (s.hostReset).phase = State.reset.phase := rfl
@[simp] theorem State.hostReset_stage : (s.hostReset).stage = State.reset.stage := rfl
@[simp] theorem State.hostReset_opl : (s.hostReset).opl = State.reset.opl := rfl
@[simp] theorem State.hostReset_cml : (s.hostReset).cml = State.reset.cml := rfl
@[simp] theorem State.hostReset_vl : (s.hostReset).vl = State.reset.vl := rfl
@[simp] theorem State.hostReset_script : (s.hostReset).script = s.script := rfl
@[simp] theorem State.hostReset_readLog : (s.hostReset).readLog = s.readLog := rfl

@[simp] theorem State.writeResults_din : s.writeResults.din = s.din := by
  unfold State.writeResults; split_ifs <;> rfl
@[simp] theorem State.writeResults_key : s.writeResults.key = s.key := by
  unfold State.writeResults; split_ifs <;> rfl
@[simp] theorem State.writeResults_rk0 : s.writeResults.rk0 = s.rk0 := by
  unfold State.writeResults; split_ifs <;> rfl
@[simp] theorem State.writeResults_rk1 : s.writeResults.rk1 = s.rk1 := by
  unfold State.writeResults; split_ifs <;> rfl
@[simp] theorem State.writeResults_rk2 : s.writeResults.rk2 = s.rk2 := by
  unfold State.writeResults; split_ifs <;> rfl
@[simp] theorem State.writeResults_done : s.writeResults.done = s.done := by
  unfold State.writeResults; split_ifs <;> rfl
@[simp] theorem State.writeResults_err : s.writeResults.err = s.err := by
  unfold State.writeResults; split_ifs <;> rfl
@[simp] theorem State.writeResults_wovr : s.writeResults.wovr = s.wovr := by
  unfold State.writeResults; split_ifs <;> rfl
@[simp] theorem State.writeResults_st : s.writeResults.st = s.st := by
  unfold State.writeResults; split_ifs <;> rfl
@[simp] theorem State.writeResults_phase : s.writeResults.phase = s.phase := by
  unfold State.writeResults; split_ifs <;> rfl
@[simp] theorem State.writeResults_stage : s.writeResults.stage = s.stage := by
  unfold State.writeResults; split_ifs <;> rfl
@[simp] theorem State.writeResults_opl : s.writeResults.opl = s.opl := by
  unfold State.writeResults; split_ifs <;> rfl
@[simp] theorem State.writeResults_cml : s.writeResults.cml = s.cml := by
  unfold State.writeResults; split_ifs <;> rfl
@[simp] theorem State.writeResults_vl : s.writeResults.vl = s.vl := by
  unfold State.writeResults; split_ifs <;> rfl
@[simp] theorem State.writeResults_script : s.writeResults.script = s.script := by
  unfold State.writeResults; split_ifs <;> rfl
@[simp] theorem State.writeResults_readLog : s.writeResults.readLog = s.readLog := by
  unfold State.writeResults; split_ifs <;> rfl

@[simp] theorem State.complete_din : (s.complete).din = s.din := s.writeResults_din
@[simp] theorem State.complete_dout : (s.complete).dout = s.writeResults.dout := rfl
@[simp] theorem State.complete_key : (s.complete).key = s.key := s.writeResults_key
@[simp] theorem State.complete_chain : (s.complete).chain = s.writeResults.chain := rfl
@[simp] theorem State.complete_rk0 : (s.complete).rk0 = s.rk0 := s.writeResults_rk0
@[simp] theorem State.complete_rk1 : (s.complete).rk1 = s.rk1 := s.writeResults_rk1
@[simp] theorem State.complete_rk2 : (s.complete).rk2 = s.rk2 := s.writeResults_rk2
@[simp] theorem State.complete_done : (s.complete).done = true := rfl
@[simp] theorem State.complete_err : (s.complete).err = .ok := rfl
@[simp] theorem State.complete_wovr : (s.complete).wovr = s.wovr := s.writeResults_wovr
@[simp] theorem State.complete_st : (s.complete).st = s.st := s.writeResults_st
@[simp] theorem State.complete_phase : (s.complete).phase = .idle := rfl
@[simp] theorem State.complete_stage : (s.complete).stage = 0 := rfl
@[simp] theorem State.complete_opl : (s.complete).opl = s.opl := s.writeResults_opl
@[simp] theorem State.complete_cml : (s.complete).cml = s.cml := s.writeResults_cml
@[simp] theorem State.complete_vl : (s.complete).vl = s.vl := s.writeResults_vl
@[simp] theorem State.complete_script : (s.complete).script = s.script := s.writeResults_script
@[simp] theorem State.complete_readLog : (s.complete).readLog = s.readLog := s.writeResults_readLog

end Sys2Proof.Machine
end

