-- ==== Sys2Proof/Laws/Ops.lean ====
section
/-! SUPPORT. What each shared operation can do, said once: the guard of a busy block, the start of a command, the writes of the host, the
sequencer's transitions, and a step. -/

namespace Sys2Proof.Machine

/-! ## BUSY and the guard -/

@[simp] theorem State.busy_eq_false (s : State) : s.busy = false ↔ s.phase = .idle := by simp [State.busy]

@[simp] theorem State.busy_eq_true (s : State) : s.busy = true ↔ s.phase ≠ .idle := by simp [State.busy]

theorem State.whenIdle_of_idle {s : State} (h : s.phase = .idle) (t : State) : s.whenIdle t = t := by
  simp [State.whenIdle, h]

theorem State.whenIdle_of_busy {s : State} (h : s.phase ≠ .idle) (t : State) : s.whenIdle t = s.dropWrite := by
  simp [State.whenIdle, h]

theorem State.whenIdle_cases (s t : State) :
    (s.phase ≠ .idle ∧ s.whenIdle t = s.dropWrite) ∨ (s.phase = .idle ∧ s.whenIdle t = t) := by
  by_cases h : s.phase = .idle
  · exact .inr ⟨h, s.whenIdle_of_idle h t⟩
  · exact .inl ⟨h, s.whenIdle_of_busy h t⟩

/-! ## Commands -/

/-- Everything the start of a command can do (R94, R96, R106). -/
theorem startCommand_cases (s : State) (op : BitVec 4) (cm : BitVec 2) (v : Variant) (bits : KeyBits) (b : Word) :
    (s.phase ≠ .idle ∧ startCommand s op cm v bits b = s.dropWrite) ∨
    (s.phase = .idle ∧ keyTooWide bits s.key = true ∧ startCommand s op cm v bits b = s.reject .keyWidth) ∨
    (s.phase = .idle ∧ keyTooWide bits s.key = false ∧ startCommand s op cm v bits b = s.accept op cm v b) := by
  unfold startCommand
  rcases s.whenIdle_cases (if keyTooWide bits s.key then s.reject .keyWidth else s.accept op cm v b) with ⟨h, e⟩ | ⟨h, e⟩
  · exact .inl ⟨h, e⟩
  · cases hk : keyTooWide bits s.key
    · exact .inr (.inr ⟨h, rfl, by simpa [hk] using e⟩)
    · exact .inr (.inl ⟨h, rfl, by simpa [hk] using e⟩)

/-- The OP field of a command (R38). -/
def opOf : Instr → BitVec 4
  | .enc _ => 1
  | .dec _ => 2
  | .denc _ => 3
  | .ddec _ => 4
  | .tenc2 _ => 3
  | .tdec2 _ => 4
  | .tenc3 _ => 3
  | .tdec3 _ => 4
  | .cbcenc _ => 5
  | .cbcdec _ => 6
  | .kexp _ => 7

/-- The CM field of a command (R38). -/
def cmOf : Instr → BitVec 2
  | .enc _ => 0
  | .dec _ => 0
  | .denc _ => 0
  | .ddec _ => 0
  | .tenc2 _ => 1
  | .tdec2 _ => 1
  | .tenc3 _ => 2
  | .tdec3 _ => 2
  | .cbcenc _ => 0
  | .cbcdec _ => 0
  | .kexp _ => 0

/-- The key bits of a command (R38, R101). -/
def bitsOf : Instr → KeyBits
  | .enc _ => .k16
  | .dec _ => .k16
  | .denc _ => .k32
  | .ddec _ => .k32
  | .tenc2 _ => .k32
  | .tdec2 _ => .k32
  | .tenc3 _ => .k48
  | .tdec3 _ => .k48
  | .cbcenc _ => .k16
  | .cbcdec _ => .k16
  | .kexp _ => .k16

/-- What ST holds after acceptance (R96). -/
def blockOf (i : Instr) (s : State) : Word :=
  match i with
  | .enc v => maskN v s.din
  | .dec v => maskN v s.din
  | .denc v => maskN v s.din
  | .ddec v => maskN v s.din
  | .tenc2 v => maskN v s.din
  | .tdec2 v => maskN v s.din
  | .tenc3 v => maskN v s.din
  | .tdec3 v => maskN v s.din
  | .cbcenc v => maskN v (s.din ^^^ s.chain)
  | .cbcdec v => maskN v s.din
  | .kexp _ => s.st

/-- Every command's meaning is the start of that command. -/
theorem exec_eq (i : Instr) (s : State) :
    exec i s = .next (startCommand s (opOf i) (cmOf i) i.variant (bitsOf i) (blockOf i s)) := by
  cases i <;> rfl

/-- Everything a command can do when it is written. -/
theorem exec_cases (i : Instr) (s : State) :
    (s.phase ≠ .idle ∧ exec i s = .next s.dropWrite) ∨
    (s.phase = .idle ∧ keyTooWide (bitsOf i) s.key = true ∧ exec i s = .next (s.reject .keyWidth)) ∨
    (s.phase = .idle ∧ keyTooWide (bitsOf i) s.key = false ∧
      exec i s = .next (s.accept (opOf i) (cmOf i) i.variant (blockOf i s))) := by
  rw [exec_eq]
  rcases startCommand_cases s (opOf i) (cmOf i) i.variant (bitsOf i) (blockOf i s) with ⟨h, e⟩ | ⟨h, hk, e⟩ | ⟨h, hk, e⟩
  · exact .inl ⟨h, by rw [e]⟩
  · exact .inr (.inl ⟨h, hk, by rw [e]⟩)
  · exact .inr (.inr ⟨h, hk, by rw [e]⟩)

/-- Everything a write to CMD can do (R106). -/
theorem commandWrite_cases (w : Word) (s : State) :
    (s.phase ≠ .idle ∧ commandWrite w s = .next s.dropWrite) ∨
    (s.phase = .idle ∧ (∃ x, decode w = .error x) ∧ commandWrite w s = .next (s.reject .illegal)) ∨
    (s.phase = .idle ∧ ∃ i, decode w = .ok i ∧
      ((keyTooWide (bitsOf i) s.key = true ∧ commandWrite w s = .next (s.reject .keyWidth)) ∨
       (keyTooWide (bitsOf i) s.key = false ∧
        commandWrite w s = .next (s.accept (opOf i) (cmOf i) i.variant (blockOf i s))))) := by
  unfold commandWrite
  cases hd : decode w with
  | error x =>
    rcases s.whenIdle_cases (s.reject .illegal) with ⟨h, e⟩ | ⟨h, e⟩
    · exact .inl ⟨h, by simp only [illegalCommand, e]⟩
    · exact .inr (.inl ⟨h, ⟨x, rfl⟩, by simp only [illegalCommand, e]⟩)
  | ok i =>
    rcases exec_cases i s with ⟨h, e⟩ | ⟨h, hk, e⟩ | ⟨h, hk, e⟩
    · exact .inl ⟨h, e⟩
    · exact .inr (.inr ⟨h, i, rfl, .inl ⟨hk, e⟩⟩)
    · exact .inr (.inr ⟨h, i, rfl, .inr ⟨hk, e⟩⟩)

/-! ## The register map -/

theorem Reg.ofAddr_addr (r : Reg) : Reg.ofAddr r.addr = some r := by cases r <;> rfl

theorem Reg.addr_of_ofAddr (a : Addr) (r : Reg) (h : Reg.ofAddr a = some r) : a = r.addr := by
  apply BitVec.eq_of_toNat_eq
  unfold Reg.ofAddr at h
  split at h <;> cases h <;> assumption

/-! ## Host writes -/

/-- Everything a host write to a register other than CMD can do (R94). -/
theorem hostWrite_cases (s : State) (a : Addr) (v : Word) :
    (a = Reg.cmd.addr ∧ s.hostWrite commandWrite a v = commandWrite v s) ∨
    (a = Reg.status.addr ∧ s.hostWrite commandWrite a v = .next (s.statusWrite v)) ∨
    (a = Reg.din.addr ∧ s.hostWrite commandWrite a v = .next (s.whenIdle { s with din := v })) ∨
    (a = Reg.key0.addr ∧ s.hostWrite commandWrite a v = .next (s.whenIdle { s with key := setKey0 s.key v })) ∨
    (a = Reg.key1.addr ∧ s.hostWrite commandWrite a v = .next (s.whenIdle { s with key := setKey1 s.key v })) ∨
    (a = Reg.key2.addr ∧ s.hostWrite commandWrite a v = .next (s.whenIdle { s with key := setKey2 s.key v })) ∨
    (a = Reg.chain.addr ∧ s.hostWrite commandWrite a v = .next (s.whenIdle { s with chain := v })) ∨
    s.hostWrite commandWrite a v = .next s := by
  unfold State.hostWrite
  cases h : Reg.ofAddr a with
  | none => simp
  | some r =>
    obtain rfl := Reg.addr_of_ofAddr a r h
    cases r <;> simp

/-! ## The sequencer -/

/-- Everything a sequencer step can do when it answers a next state (R64, R67 to R69). -/
theorem sequencerStep_cases {s t : State} (h : sequencerStep s = .next t) :
    (s.phase = .idle ∧ t = s) ∨
    (∃ stg, s.phase = .start ∧ s.currentStage = some stg ∧
      t = { s.loadSchedule (expand s.vl stg.subkey) with phase := if s.opl = 0x7#4 then .sdone else .run 0 }) ∨
    (∃ i dir k r, s.phase = .run i ∧ s.currentStage = some ⟨some dir, k⟩ ∧ (seq dir s.vl)[i.val]? = some r ∧
      t = { s with st := r.apply s, phase := if i.val + 1 < (seq dir s.vl).length then .run (i + 1) else .sdone }) ∨
    (∃ stg, s.phase = .sdone ∧ s.currentStage = some stg ∧ s.stage.val + 1 < s.plan.length ∧
      t = { s with stage := s.stage + 1, phase := .start }) ∨
    (∃ stg, s.phase = .sdone ∧ s.currentStage = some stg ∧ ¬ s.stage.val + 1 < s.plan.length ∧ t = s.complete) := by
  unfold sequencerStep at h
  split at h
  case h_1 hp => exact .inl ⟨hp, by simpa using h.symm⟩
  case h_2 hp =>
    unfold startStep at h
    split at h
    · rename_i stg hs
      exact .inr (.inl ⟨stg, hp, hs, by simpa using h.symm⟩)
    · cases h
  case h_3 i hp =>
    unfold roundStep at h
    split at h
    · rename_i dir k hs
      split at h
      · rename_i r hr
        exact .inr (.inr (.inl ⟨i, dir, k, r, hp, hs, hr, by simpa using h.symm⟩))
      · cases h
    · cases h
    · cases h
  case h_4 hp =>
    unfold doneStep at h
    split at h
    · rename_i stg hs
      split at h
      · rename_i hl
        exact .inr (.inr (.inr (.inl ⟨stg, hp, hs, hl, by simpa using h.symm⟩)))
      · rename_i hl
        exact .inr (.inr (.inr (.inr ⟨stg, hp, hs, hl, by simpa using h.symm⟩)))
    · cases h

/-! ## Steps -/

theorem step_of_nil {s : State} (h : s.script = []) : step s = sequencerStep s := by simp [step, h]

theorem step_of_cons {s : State} {e : Event} {rest : List Event} (h : s.script = e :: rest) :
    step s = occur e { s with script := rest } := by
  simp [step, h, State.popScript]

end Sys2Proof.Machine
end

