-- ==== Sys2Proof/Laws/Decode.lean ====
section
/-! SUPPORT. Laws of the word format (R34): a word is its four fields, and what each plain decoder's answer encodes to. -/

namespace Sys2Proof

open Sys2Proof.Machine

theorem word_eq_fields (w : Word) : w = fieldRsv w ++ w.extractLsb' 6 1 ++ fieldCm w ++ fieldOp w := by
  unfold fieldRsv fieldCm fieldOp
  ext i hi
  simp
  grind

theorem fieldV_bit (w : Word) : (fieldV w).bit = w.extractLsb' 6 1 := by
  unfold fieldV
  split <;> rename_i h <;> (ext i hi; obtain rfl : i = 0 := by omega) <;> simp_all [Variant.bit]

/-- A word whose reserved bits are 0 is the command word of its other fields. -/
theorem word_eq_commandWord {w : Word} (h : fieldRsv w = 0#9) : w = commandWord (fieldV w) (fieldCm w) (fieldOp w) := by
  conv_lhs => rw [word_eq_fields w, h]
  simp [commandWord, fieldV_bit]

theorem encode_of_decodePlain {op : BitVec 4} {v : Variant} {i : Instr} (h : decodePlain op v = .ok i) :
    encode i = commandWord v 0b00#2 op := by
  unfold decodePlain at h
  split at h <;> simp at h
  all_goals
    subst h
    rename_i h
    simp [encode]
    congr 1
    exact (BitVec.eq_of_toNat_eq h).symm

theorem encode_of_decodeCascadeEnc {cm : BitVec 2} {v : Variant} {i : Instr} (h : decodeCascadeEnc cm v = .ok i) :
    encode i = commandWord v cm 0x3#4 := by
  unfold decodeCascadeEnc at h
  split at h <;> simp at h
  all_goals
    subst h
    rename_i h
    simp [encode]
    congr 1
    exact (BitVec.eq_of_toNat_eq h).symm

theorem encode_of_decodeCascadeDec {cm : BitVec 2} {v : Variant} {i : Instr} (h : decodeCascadeDec cm v = .ok i) :
    encode i = commandWord v cm 0x4#4 := by
  unfold decodeCascadeDec at h
  split at h <;> simp at h
  all_goals
    subst h
    rename_i h
    simp [encode]
    congr 1
    exact (BitVec.eq_of_toNat_eq h).symm

/-- The fields of an encoded command (R38). -/
theorem fields_encode : ∀ i : Instr,
    fieldOp (encode i) = opOf i ∧ fieldCm (encode i) = cmOf i ∧ fieldV (encode i) = i.variant := by
  intro i
  rcases i with v | v | v | v | v | v | v | v | v | v | v <;> cases v <;> decide

/-- Which KEY a command finds too wide, by the fields of its word (R101). -/
theorem keyTooWide_bitsOf (i : Instr) (k : Key) :
    keyTooWide (bitsOf i) k = true ↔
      ((opOf i = 0x3#4 ∨ opOf i = 0x4#4) ∧ cmOf i ≠ 0b10#2 ∧ k.extractLsb' 32 16 ≠ 0#16) ∨
      ((opOf i ≠ 0x3#4 ∧ opOf i ≠ 0x4#4) ∧ k.extractLsb' 16 32 ≠ 0#32) := by
  cases i <;> simp [keyTooWide, bitsOf, opOf, cmOf]

end Sys2Proof
end

