-- ==== Sys2Proof/Laws/Events.lean ====
section
/-! SUPPORT. Everything one event can do, said once: `Occurs e s t` has one case per outcome, and `occurs_of_occur` says there is no other. -/

namespace Sys2Proof.Machine

@[simp] theorem State.statusWrite_phase (s : State) (v : Word) : (s.statusWrite v).phase = s.phase := by
  unfold State.statusWrite
  dsimp only
  split_ifs <;> rfl

theorem commandWrite_of_busy {w : Word} {s : State} (h : s.phase ≠ .idle) : commandWrite w s = .next s.dropWrite := by
  rcases commandWrite_cases w s with ⟨_, e⟩ | ⟨h', _⟩ | ⟨h', _⟩
  · exact e
  · exact absurd h' h
  · exact absurd h' h

/-- The outcomes of an event that answers a next state. -/
inductive Occurs : Event → State → State → Prop
  | read (a s) : Occurs (.read a) s (s.logRead a)
  | pollBusy (s) : s.phase ≠ .idle →
      Occurs .poll s { s.logRead Reg.status.addr with script := .sequencer :: .poll :: s.script }
  | pollIdle (s) : s.phase = .idle → Occurs .poll s (s.logRead Reg.status.addr)
  | reset (s) : Occurs .reset s s.hostReset
  | dropped (a v s) : a ∈ droppedAddrs → s.phase ≠ .idle → Occurs (.write a v) s s.dropWrite
  | illegal (w s x) : s.phase = .idle → decode w = .error x → Occurs (.write Reg.cmd.addr w) s (s.reject .illegal)
  | keyWidth (w s i) : s.phase = .idle → decode w = .ok i → keyTooWide (bitsOf i) s.key = true →
      Occurs (.write Reg.cmd.addr w) s (s.reject .keyWidth)
  | accepted (w s i) : s.phase = .idle → decode w = .ok i → keyTooWide (bitsOf i) s.key = false →
      Occurs (.write Reg.cmd.addr w) s (s.accept (opOf i) (cmOf i) i.variant (blockOf i s))
  | status (v s) : Occurs (.write Reg.status.addr v) s (s.statusWrite v)
  | din (v s) : s.phase = .idle → Occurs (.write Reg.din.addr v) s { s with din := v }
  | key (a v s k) : s.phase = .idle → (a = Reg.key0.addr ∨ a = Reg.key1.addr ∨ a = Reg.key2.addr) →
      Occurs (.write a v) s { s with key := k }
  | chain (v s) : s.phase = .idle → Occurs (.write Reg.chain.addr v) s { s with chain := v }
  | ignored (a v s) : Occurs (.write a v) s s
  | sequencer (s t) : sequencerStep s = .next t → Occurs .sequencer s t

theorem occurs_of_occur {e : Event} {s t : State} (h : occur e s = .next t) : Occurs e s t := by
  cases e with
  | read a => cases h; exact .read a s
  | poll =>
    cases h
    unfold State.pollStatus
    dsimp only
    split_ifs with hb
    · exact .pollBusy s (by simpa using hb)
    · exact .pollIdle s (by simpa using hb)
  | reset => cases h; exact .reset s
  | badAccess k => cases h
  | sequencer => exact .sequencer s t h
  | write a v =>
    change s.hostWrite commandWrite a v = _ at h
    rcases hostWrite_cases s a v with ⟨rfl, e⟩ | ⟨rfl, e⟩ | ⟨rfl, e⟩ | ⟨rfl, e⟩ | ⟨rfl, e⟩ | ⟨rfl, e⟩ | ⟨rfl, e⟩ | e <;> rw [e] at h
    · rcases commandWrite_cases v s with ⟨hp, e⟩ | ⟨hp, ⟨x, hx⟩, e⟩ | ⟨hp, i, hd, ⟨hk, e⟩ | ⟨hk, e⟩⟩ <;> rw [e] at h <;> cases h
      · exact .dropped _ _ _ (by decide) hp
      · exact .illegal _ _ x hp hx
      · exact .keyWidth _ _ i hp hd hk
      · exact .accepted _ _ i hp hd hk
    · cases h; exact .status v s
    · cases h
      rcases s.whenIdle_cases { s with din := v } with ⟨hp, e⟩ | ⟨hp, e⟩ <;> rw [e]
      · exact .dropped _ _ _ (by decide) hp
      · exact .din _ _ hp
    · cases h
      rcases s.whenIdle_cases { s with key := setKey0 s.key v } with ⟨hp, e⟩ | ⟨hp, e⟩ <;> rw [e]
      · exact .dropped _ _ _ (by decide) hp
      · exact .key _ _ _ _ hp (by simp)
    · cases h
      rcases s.whenIdle_cases { s with key := setKey1 s.key v } with ⟨hp, e⟩ | ⟨hp, e⟩ <;> rw [e]
      · exact .dropped _ _ _ (by decide) hp
      · exact .key _ _ _ _ hp (by simp)
    · cases h
      rcases s.whenIdle_cases { s with key := setKey2 s.key v } with ⟨hp, e⟩ | ⟨hp, e⟩ <;> rw [e]
      · exact .dropped _ _ _ (by decide) hp
      · exact .key _ _ _ _ hp (by simp)
    · cases h
      rcases s.whenIdle_cases { s with chain := v } with ⟨hp, e⟩ | ⟨hp, e⟩ <;> rw [e]
      · exact .dropped _ _ _ (by decide) hp
      · exact .chain _ _ hp
    · cases h; exact .ignored a v s

end Sys2Proof.Machine
end

