-- ==== Sys2Proof/Laws/PerInstr.lean ====
section
/-! SUPPORT. Statements made of every command, one lemma per constructor: the reserved bits of a command's word are 0, its V field is the
command's variant, its word is legal, and the command is well formed (R34, R35, R38, R40, R3). -/

namespace Sys2Proof.Laws.WordFields

/-- The claim about one command. -/
def Statement (i : Instr) : Prop :=
  fieldRsv (encode i) = 0#9 ∧ fieldV (encode i) = i.variant ∧ wordIllegal (encode i) = false ∧ i.wf = true

theorem enc (v : Variant) : Statement (.enc v) := by cases v <;> (unfold Statement; decide)
theorem dec (v : Variant) : Statement (.dec v) := by cases v <;> (unfold Statement; decide)
theorem denc (v : Variant) : Statement (.denc v) := by cases v <;> (unfold Statement; decide)
theorem ddec (v : Variant) : Statement (.ddec v) := by cases v <;> (unfold Statement; decide)
theorem tenc2 (v : Variant) : Statement (.tenc2 v) := by cases v <;> (unfold Statement; decide)
theorem tdec2 (v : Variant) : Statement (.tdec2 v) := by cases v <;> (unfold Statement; decide)
theorem tenc3 (v : Variant) : Statement (.tenc3 v) := by cases v <;> (unfold Statement; decide)
theorem tdec3 (v : Variant) : Statement (.tdec3 v) := by cases v <;> (unfold Statement; decide)
theorem cbcenc (v : Variant) : Statement (.cbcenc v) := by cases v <;> (unfold Statement; decide)
theorem cbcdec (v : Variant) : Statement (.cbcdec v) := by cases v <;> (unfold Statement; decide)
theorem kexp (v : Variant) : Statement (.kexp v) := by cases v <;> (unfold Statement; decide)

end Sys2Proof.Laws.WordFields
end

