-- ==== Sys2Proof/Laws/Primitives.lean ====
section
/-! SUPPORT. Laws of the datapath's bits: nibbles and their packing, the substitution ROMs, field multiplication, the windows of KEY, and
masking to the block width. -/

namespace Sys2Proof.Machine

/-! ## Concatenation -/

theorem extractLsb'_append_high {m n : Nat} (a : BitVec m) (b : BitVec n) : (a ++ b).extractLsb' n m = a := by
  apply BitVec.eq_of_getLsbD_eq
  intro i hi
  simp [BitVec.getLsbD_append, hi]

theorem extractLsb'_append_low {m n : Nat} (a : BitVec m) (b : BitVec n) : (a ++ b).extractLsb' 0 n = b := by
  apply BitVec.eq_of_getLsbD_eq
  intro i hi
  simp [BitVec.getLsbD_append, hi]

/-! ## Nibbles (R44) -/

theorem pack16_getLsbD (a b c d : Nibble) (n : Nat) :
    (pack16 ⟨a, b, c, d⟩).getLsbD n =
      if n < 4 then d.getLsbD n else if n < 8 then c.getLsbD (n - 4) else if n < 12 then b.getLsbD (n - 8) else a.getLsbD (n - 12) := by
  change (a ++ b ++ c ++ d : BitVec (4 + 4 + 4 + 4)).getLsbD n = _
  simp only [BitVec.getLsbD_append]
  grind

theorem pack8_getLsbD (a b : Nibble) (n : Nat) :
    (pack8 ⟨a, b⟩).getLsbD n = if n < 4 then b.getLsbD n else a.getLsbD (n - 4) := by
  change (a ++ b : BitVec (4 + 4)).getLsbD n = _
  simp only [BitVec.getLsbD_append]

@[simp] theorem pack16_decode16 (x : Word) : pack16 (decode16 x) = x := by
  apply BitVec.eq_of_getLsbD_eq
  intro i hi
  simp only [decode16, pack16_getLsbD, BitVec.getLsbD_extractLsb']
  grind

@[simp] theorem decode16_pack16 (n : Nibbles4) : decode16 (pack16 n) = n := by
  rcases n with ⟨a, b, c, d⟩
  simp only [decode16, Nibbles4.mk.injEq]
  refine ⟨?_, ?_, ?_, ?_⟩ <;>
    (apply BitVec.eq_of_getLsbD_eq
     intro i hi
     simp only [pack16_getLsbD, BitVec.getLsbD_extractLsb']
     interval_cases i <;> simp)

@[simp] theorem pack8_decode8 (x : Byte) : pack8 (decode8 x) = x := by
  apply BitVec.eq_of_getLsbD_eq
  intro i hi
  simp only [decode8, pack8_getLsbD, BitVec.getLsbD_extractLsb']
  grind

@[simp] theorem decode8_pack8 (n : Nibbles2) : decode8 (pack8 n) = n := by
  rcases n with ⟨a, b⟩
  simp only [decode8, Nibbles2.mk.injEq]
  refine ⟨?_, ?_⟩ <;>
    (apply BitVec.eq_of_getLsbD_eq
     intro i hi
     simp only [pack8_getLsbD, BitVec.getLsbD_extractLsb']
     interval_cases i <;> simp)

theorem decode16_xor (a b : Word) :
    decode16 (a ^^^ b) =
      ⟨(decode16 a).s0 ^^^ (decode16 b).s0, (decode16 a).s1 ^^^ (decode16 b).s1,
       (decode16 a).s2 ^^^ (decode16 b).s2, (decode16 a).s3 ^^^ (decode16 b).s3⟩ := by
  simp [decode16, BitVec.extractLsb'_xor]

theorem pack16_xor (m n : Nibbles4) :
    pack16 m ^^^ pack16 n = pack16 ⟨m.s0 ^^^ n.s0, m.s1 ^^^ n.s1, m.s2 ^^^ n.s2, m.s3 ^^^ n.s3⟩ := by
  rcases m with ⟨a, b, c, d⟩
  rcases n with ⟨a', b', c', d'⟩
  apply BitVec.eq_of_getLsbD_eq
  intro i hi
  simp only [BitVec.getLsbD_xor, pack16_getLsbD]
  grind

/-! ## The ROMs and the field, nibble by nibble -/

@[simp] theorem isbox_sbox : ∀ x : Nibble, isbox (sbox x) = x := by decide

@[simp] theorem sbox_isbox : ∀ x : Nibble, sbox (isbox x) = x := by decide

/-- [[9,2],[2,9]] after [[1,4],[4,1]] is the identity on a pair of nibbles (R53): its first row … -/
theorem gmul_invMix_mix_first : ∀ a b : Nibble,
    gmul 0x9#4 (a ^^^ gmul 0x4#4 b) ^^^ gmul 0x2#4 (b ^^^ gmul 0x4#4 a) = a := by decide +kernel

/-- … and its second. -/
theorem gmul_invMix_mix_second : ∀ a b : Nibble,
    gmul 0x2#4 (a ^^^ gmul 0x4#4 b) ^^^ gmul 0x9#4 (b ^^^ gmul 0x4#4 a) = b := by decide +kernel

/-- [[1,4],[4,1]] after [[9,2],[2,9]] is the identity: its first row … -/
theorem gmul_mix_invMix_first : ∀ a b : Nibble,
    (gmul 0x9#4 a ^^^ gmul 0x2#4 b) ^^^ gmul 0x4#4 (gmul 0x2#4 a ^^^ gmul 0x9#4 b) = a := by decide +kernel

/-- … and its second. -/
theorem gmul_mix_invMix_second : ∀ a b : Nibble,
    (gmul 0x2#4 a ^^^ gmul 0x9#4 b) ^^^ gmul 0x4#4 (gmul 0x9#4 a ^^^ gmul 0x2#4 b) = b := by decide +kernel

/-- The square of [[1,4],[4,1]] is multiplication by 2. -/
theorem gmul_mix_mix : ∀ a b : Nibble,
    (a ^^^ gmul 0x4#4 b) ^^^ gmul 0x4#4 (b ^^^ gmul 0x4#4 a) = gmul 0x2#4 a := by decide +kernel

theorem gmul_two_eq_self : ∀ a : Nibble, gmul 0x2#4 a = a ↔ a = 0x0#4 := by decide +kernel

/-- `SubstituteByte(w) = SubNib_8(w)`, nibble by nibble (R55). -/
theorem substituteByte_eq : ∀ b : Byte, substituteByte b = sbox (b.extractLsb' 4 4) ++ sbox (b.extractLsb' 0 4) := by
  decide +kernel

@[simp] theorem expand16_rk0 (k : Word) : (expand16 k).rk0 = k := by
  simp only [expand16]
  ext i hi
  simp
  grind

/-! ## The windows of KEY (R12) -/

@[simp] theorem keyLow_keyOfWindows (a b c : Word) : keyLow (keyOfWindows a b c) = c := extractLsb'_append_low (a ++ b) c

@[simp] theorem keyMid_keyOfWindows (a b c : Word) : keyMid (keyOfWindows a b c) = b := by
  apply BitVec.eq_of_getLsbD_eq
  intro i hi
  change (BitVec.extractLsb' 16 16 (a ++ b ++ c : BitVec (16 + 16 + 16))).getLsbD i = _
  simp only [BitVec.getLsbD_extractLsb', BitVec.getLsbD_append, hi]
  simp [hi]

@[simp] theorem keyHigh_keyOfWindows (a b c : Word) : keyHigh (keyOfWindows a b c) = a := by
  apply BitVec.eq_of_getLsbD_eq
  intro i hi
  change (BitVec.extractLsb' 32 16 (a ++ b ++ c : BitVec (16 + 16 + 16))).getLsbD i = _
  simp only [BitVec.getLsbD_extractLsb', BitVec.getLsbD_append, hi]
  simp [hi]
  grind

theorem keyOfWindows_self (k : Key) : keyOfWindows (keyHigh k) (keyMid k) (keyLow k) = k := by
  apply BitVec.eq_of_getLsbD_eq
  intro i hi
  change (keyHigh k ++ keyMid k ++ keyLow k : BitVec (16 + 16 + 16)).getLsbD i = _
  simp only [BitVec.getLsbD_append, keyHigh, keyMid, keyLow, BitVec.getLsbD_extractLsb']
  grind

/-! ## Masking (R13, R39) -/

theorem zext16_lowByte (x : Word) : zext16 (lowByte x) = x &&& 0x00FF#16 := by
  apply BitVec.eq_of_getLsbD_eq
  intro i hi
  simp [zext16, lowByte]
  interval_cases i <;> simp

theorem and_00FF_xor (b c : Word) : (b ^^^ c) &&& 0x00FF#16 = (b &&& 0x00FF#16) ^^^ (c &&& 0x00FF#16) := by
  apply BitVec.eq_of_getLsbD_eq
  intro i hi
  simp only [BitVec.getLsbD_and, BitVec.getLsbD_xor]
  grind

@[simp] theorem maskN_maskN (v : Variant) (x : Word) : maskN v (maskN v x) = maskN v x := by cases v <;> simp [maskN]

theorem maskN_xor (v : Variant) (x y : Word) : maskN v (x ^^^ y) = maskN v x ^^^ maskN v y := by
  cases v
  · rfl
  · simp only [maskN, zext16, lowByte, BitVec.setWidth_xor]

@[simp] theorem encN_maskN (v : Variant) (x k : Word) : encN v (maskN v x) k = encN v x k := by
  cases v <;> simp [encN, onBlock, maskN]

@[simp] theorem decN_maskN (v : Variant) (x k : Word) : decN v (maskN v x) k = decN v x k := by
  cases v <;> simp [decN, onBlock, maskN]

@[simp] theorem maskN_encN (v : Variant) (x k : Word) : maskN v (encN v x k) = encN v x k := by
  cases v <;> simp [encN, onBlock, maskN]

@[simp] theorem maskN_decN (v : Variant) (x k : Word) : maskN v (decN v x k) = decN v x k := by
  cases v <;> simp [decN, onBlock, maskN]

end Sys2Proof.Machine
end

