-- ==== Sys2Proof/Laws/Runs.lean ====
section
/-! SUPPORT. Runs: their first step and their concatenation, the four transitions of the sequencer as equations, and a run that stays busy. -/

namespace Sys2Proof.Machine

/-! ## Runs -/

theorem runSequencer_succ {s t : State} (h : sequencerStep s = .next t) (n : Nat) :
    runSequencer (n + 1) s = runSequencer n t := by simp [runSequencer, h]

theorem runSequencer_add (m n : Nat) (s t : State) (h : runSequencer m s = .next t) :
    runSequencer (m + n) s = runSequencer n t := by
  induction m generalizing s with
  | zero => simp [runSequencer] at h; subst h; simp
  | succ m ih =>
    rw [Nat.add_right_comm]
    simp only [runSequencer] at h ⊢
    cases hs : sequencerStep s with
    | next u => rw [hs] at h; exact ih u h
    | fault r => rw [hs] at h; cases h
    | refused r => rw [hs] at h; cases h

theorem runSteps_succ {s t : State} (h : step s = .next t) (n : Nat) : runSteps (n + 1) s = runSteps n t := by
  simp [runSteps, h]

theorem runSteps_one {s t : State} (h : step s = .next t) : runSteps 1 s = .next t := by rw [runSteps_succ h]; rfl

theorem runSteps_add (m n : Nat) (s t : State) (h : runSteps m s = .next t) : runSteps (m + n) s = runSteps n t := by
  induction m generalizing s with
  | zero => simp [runSteps] at h; subst h; simp
  | succ m ih =>
    rw [Nat.add_right_comm]
    simp only [runSteps] at h ⊢
    cases hs : step s with
    | next u => rw [hs] at h; exact ih u h
    | fault r => rw [hs] at h; cases h
    | refused r => rw [hs] at h; cases h

/-! ## The transitions -/

theorem sequencerStep_start {s : State} {stg : Stage} (hp : s.phase = .start) (hs : s.currentStage = some stg) :
    sequencerStep s = .next { s.loadSchedule (expand s.vl stg.subkey) with
      phase := if s.opl = 0x7#4 then .sdone else .run 0 } := by
  simp [sequencerStep, hp, startStep, hs]

theorem sequencerStep_round {s : State} {i : Fin 8} {dir : Dir} {k : Word} {r : RoundStep} (hp : s.phase = .run i)
    (hs : s.currentStage = some ⟨some dir, k⟩) (hr : (seq dir s.vl)[i.val]? = some r) :
    sequencerStep s = .next { s with
      st := r.apply s, phase := if i.val + 1 < (seq dir s.vl).length then .run (i + 1) else .sdone } := by
  simp [sequencerStep, hp, roundStep, hs, hr]

theorem sequencerStep_nextStage {s : State} {stg : Stage} (hp : s.phase = .sdone) (hs : s.currentStage = some stg)
    (hl : s.stage.val + 1 < s.plan.length) :
    sequencerStep s = .next { s with stage := s.stage + 1, phase := .start } := by
  simp [sequencerStep, hp, doneStep, hs, hl]

theorem sequencerStep_complete {s : State} {stg : Stage} (hp : s.phase = .sdone) (hs : s.currentStage = some stg)
    (hl : ¬ s.stage.val + 1 < s.plan.length) : sequencerStep s = .next s.complete := by
  simp [sequencerStep, hp, doneStep, hs, hl]

theorem plan_length_le (s : State) : s.plan.length ≤ 3 := by
  unfold State.plan plan
  split <;> simp

theorem seq_length_le (dir : Dir) (v : Variant) : (seq dir v).length ≤ 8 := by cases dir <;> cases v <;> simp [seq]

/-- The registers no sequencer step writes, and those only a completion writes. -/
theorem sequencerStep_frame {s t : State} (h : sequencerStep s = .next t) :
    t.wovr = s.wovr ∧ t.din = s.din ∧ t.key = s.key ∧ t.opl = s.opl ∧ t.cml = s.cml ∧ t.vl = s.vl ∧ t.script = s.script ∧
    t.readLog = s.readLog ∧
    (t.phase ≠ .idle → t.chain = s.chain ∧ t.dout = s.dout ∧ t.done = s.done ∧ t.err = s.err) := by
  rcases sequencerStep_cases h with ⟨_, rfl⟩ | ⟨stg, _, _, rfl⟩ | ⟨i, dir, k, r, _, _, _, rfl⟩ | ⟨stg, _, _, _, rfl⟩ |
    ⟨stg, _, _, _, rfl⟩ <;> simp

/-! ## A run that stays busy -/

/-- `n` sequencer steps from `s` to `u`, with BUSY = 1 before each. -/
def BusyRun (n : Nat) (s u : State) : Prop :=
  runSequencer n s = .next u ∧ ∀ m < n, ∃ w, runSequencer m s = .next w ∧ w.phase ≠ .idle

theorem BusyRun.zero (s : State) : BusyRun 0 s s := ⟨rfl, fun m hm => by omega⟩

theorem BusyRun.cons {s t u : State} {n : Nat} (hp : s.phase ≠ .idle) (h : sequencerStep s = .next t) (b : BusyRun n t u) :
    BusyRun (n + 1) s u := by
  refine ⟨by rw [runSequencer_succ h]; exact b.1, ?_⟩
  intro m hm
  cases m with
  | zero => exact ⟨s, rfl, hp⟩
  | succ m => rw [runSequencer_succ h]; exact b.2 m (by omega)

theorem BusyRun.trans {m n : Nat} {s t u : State} (a : BusyRun m s t) (b : BusyRun n t u) : BusyRun (m + n) s u := by
  refine ⟨by rw [runSequencer_add m n s t a.1]; exact b.1, ?_⟩
  intro j hj
  by_cases h : j < m
  · exact a.2 j h
  · obtain ⟨i, rfl⟩ := Nat.exists_eq_add_of_le (Nat.le_of_not_lt h)
    rw [runSequencer_add m i s t a.1]
    exact b.2 i (by omega)

theorem BusyRun.snoc {n : Nat} {s t u : State} (b : BusyRun n s t) (hp : t.phase ≠ .idle) (h : sequencerStep t = .next u) :
    BusyRun (n + 1) s u := b.trans (.cons hp h (.zero u))

theorem BusyRun.completes {n : Nat} {s u : State} (b : BusyRun n s u) (h : u.phase = .idle) : CompletesIn n s u := ⟨b.1, h, b.2⟩

theorem CompletesIn.busyRun {n : Nat} {s u : State} (h : CompletesIn n s u) : BusyRun n s u := ⟨h.1, h.2.2⟩

/-! ## One stage -/

/-- What a stage leaves in ST. -/
def stageOutput (dir : Dir) (v : Variant) (x k : Word) : Word :=
  match dir with
  | .encrypt => encN v x k
  | .decrypt => decN v x k

/-- A stage from START to SDONE: the schedule in RK0-RK2, the cipher of ST in ST. -/
def State.afterStage (s : State) (dir : Dir) (k : Word) : State :=
  { s with
    st := stageOutput dir s.vl s.st k, rk0 := (expand s.vl k).rk0, rk1 := (expand s.vl k).rk1, rk2 := (expand s.vl k).rk2
    phase := .sdone }

theorem stage_run (s : State) (dir : Dir) (k : Word) (hp : s.phase = .start) (hs : s.currentStage = some ⟨some dir, k⟩)
    (h7 : s.opl ≠ 0x7#4) : BusyRun (stageSteps s.vl - 1) s (s.afterStage dir k) := by
  have h0 : sequencerStep s = .next { s.loadSchedule (expand s.vl k) with phase := .run 0 } := by
    simp [sequencerStep, hp, startStep, hs, h7]
  unfold State.afterStage
  cases hv : s.vl <;> cases dir
  all_goals
    simp only [stageSteps]
    refine .cons (by simp [hp]) h0 ?_
    refine .cons (by simp) (sequencerStep_round (i := 0) rfl hs (by simp only [State.loadSchedule_vl, hv]; rfl)) ?_
    refine .cons (by simp [hv, seq])
      (sequencerStep_round (i := 1) (by simp [hv, seq]) hs (by simp only [State.loadSchedule_vl, hv]; rfl)) ?_
    refine .cons (by simp [hv, seq])
      (sequencerStep_round (i := 2) (by simp [hv, seq]) hs (by simp only [State.loadSchedule_vl, hv]; rfl)) ?_
    refine .cons (by simp [hv, seq])
      (sequencerStep_round (i := 3) (by simp [hv, seq]) hs (by simp only [State.loadSchedule_vl, hv]; rfl)) ?_
    refine .cons (by simp [hv, seq])
      (sequencerStep_round (i := 4) (by simp [hv, seq]) hs (by simp only [State.loadSchedule_vl, hv]; rfl)) ?_
    refine .cons (by simp [hv, seq])
      (sequencerStep_round (i := 5) (by simp [hv, seq]) hs (by simp only [State.loadSchedule_vl, hv]; rfl)) ?_
    refine .cons (by simp [hv, seq])
      (sequencerStep_round (i := 6) (by simp [hv, seq]) hs (by simp only [State.loadSchedule_vl, hv]; rfl)) ?_
    try refine BusyRun.cons (by simp [hv, seq]) (sequencerStep_round (i := 7) (by simp [hv, seq]) hs (by simp only [State.loadSchedule_vl, hv]; rfl)) ?_
    convert BusyRun.zero _ using 1
    simp [hv, seq, State.loadSchedule, RoundStep.apply, keyMixN, subNibN, invSubNibN, permN, onBlock, stageOutput, encN, decN, enc16,
      enc8, dec16, dec8, expand, perm8]

end Sys2Proof.Machine
end

