-- ==== Sys2Proof/Tests/Slice0.lean ====
section
/-! SUPPORT. Tests: the decoder on words written out from R34 and R38, the smoke tests of WellFormed, the vectors of 95_test_vectors.md, one
step at a time, and for each statement with hypotheses a state and operands that meet them. -/

namespace Sys2Proof.Machine.Tests

/-! ## Helpers -/

/-- `r` is a next state of which `p` holds. -/
def nextIs (r : Result) (p : State → Bool) : Bool :=
  match r with
  | .next t => p t
  | .fault _ => false
  | .refused _ => false

/-- An idle block with a key, a block and a chain value. -/
def idleState (k : Key) (d c : Word) : State := { State.reset with key := k, din := d, chain := c }

/-- A block in the middle of a command: OP, CM, V16, at a phase and a stage. -/
def busyState (op : BitVec 4) (cm : BitVec 2) (p : Phase) (n : Fin 3) : State :=
  { idleState 0x4AF4#48 0x4142#16 0x1F2E#16 with opl := op, cml := cm, phase := p, stage := n, st := 0x4142#16 }

/-! ## Decoding: RSV || V || CM || OP, bit by bit (R34, R38) -/

theorem test_decode_enc : decode 0b000000000_0_00_0001#16 = .ok (.enc .v16) := by decide
theorem test_decode_dec_v8 : decode 0b000000000_1_00_0010#16 = .ok (.dec .v8) := by decide
theorem test_decode_denc : decode 0b000000000_0_00_0011#16 = .ok (.denc .v16) := by decide
theorem test_decode_ddec_v8 : decode 0b000000000_1_00_0100#16 = .ok (.ddec .v8) := by decide
theorem test_decode_tenc2_v8 : decode 0b000000000_1_01_0011#16 = .ok (.tenc2 .v8) := by decide
theorem test_decode_tdec2 : decode 0b000000000_0_01_0100#16 = .ok (.tdec2 .v16) := by decide
theorem test_decode_tenc3 : decode 0b000000000_0_10_0011#16 = .ok (.tenc3 .v16) := by decide
theorem test_decode_tdec3_v8 : decode 0b000000000_1_10_0100#16 = .ok (.tdec3 .v8) := by decide
theorem test_decode_cbcenc : decode 0b000000000_0_00_0101#16 = .ok (.cbcenc .v16) := by decide
theorem test_decode_cbcdec_v8 : decode 0b000000000_1_00_0110#16 = .ok (.cbcdec .v8) := by decide
theorem test_decode_kexp : decode 0b000000000_0_00_0111#16 = .ok (.kexp .v16) := by decide

/-- The illegal words of 95_test_vectors.md 2.9, by R40's case. -/
theorem test_decode_illegal :
    decode 0x0000#16 = .error .reservedOp ∧ decode 0x0008#16 = .error .reservedOp ∧ decode 0x000F#16 = .error .reservedOp ∧
    decode 0x0033#16 = .error .reservedCascadeMode ∧ decode 0x0034#16 = .error .reservedCascadeMode ∧
    decode 0x0073#16 = .error .reservedCascadeMode ∧
    decode 0x0011#16 = .error .modeOnPlainOp ∧ decode 0x0015#16 = .error .modeOnPlainOp ∧ decode 0x0017#16 = .error .modeOnPlainOp ∧
    decode 0x0081#16 = .error .reservedBits ∧ decode 0x8003#16 = .error .reservedBits ∧ decode 0xFFFF#16 = .error .reservedBits := by
  decide

/-- A table word of the row's 16 bits, and one of more bits than a command has. -/
theorem test_decode_table_word :
    decodeTableWord 16 0x0023 = some (.tenc3 .v16) ∧ decodeTableWord 16 0x0033 = none ∧ decodeTableWord 32 0x0023 = none := by decide

/-! ## WellFormed: a refused set for each check (R3) -/

theorem test_wf_refuses_width : (⟨12, false, false⟩ : Capabilities).wf = false := by decide
theorem test_wf_refuses_v16_without_diffusion : (⟨16, false, true⟩ : Capabilities).wf = false := by decide
theorem test_wf_refuses_v8_with_diffusion : (⟨8, true, false⟩ : Capabilities).wf = false := by decide
theorem test_wf_refuses_v16_without_permutation : (⟨16, true, false⟩ : Capabilities).wf = false := by decide
theorem test_wf_refuses_v8_with_permutation : (⟨8, false, true⟩ : Capabilities).wf = false := by decide
theorem test_wf_accepts_both_variants : Variant.v16.capabilities.wf = true ∧ Variant.v8.capabilities.wf = true := by decide

/-! ## The datapath (95_test_vectors.md, 2.1 to 2.3) -/

theorem test_gmul : gmul 0x8 0x2 = 0x3#4 ∧ gmul 0x8 0x8 = 0xC#4 ∧ gmul 0xF 0xF = 0xA#4 ∧ gmul 0x4 0x4 = 0x3#4 ∧ gmul 0x9 0x4 = 0x2#4 := by
  decide
/-- The S-box spot check that 90_conflicts.md C2 corrects. -/
theorem test_sbox : sbox 0x0 = 0x9#4 ∧ sbox 0x8 = 0x6#4 ∧ sbox 0x9 = 0x2#4 ∧ isbox 0x2 = 0x9#4 := by decide
theorem test_subNib : subNib16 0x1234 = 0x4ABD#16 ∧ invSubNib16 0x1234 = 0x59B1#16 ∧ subNib8 0x5A = 0x10#8 ∧ invSubNib8 0x5A = 0x72#8 := by
  decide
theorem test_perm : perm16 0x1234 = 0x1243#16 ∧ perm16 0x9338 = 0x9383#16 ∧ perm8 0x5A = 0x5A#8 := by decide
theorem test_mix : mix 0x1234 = 0xD17C#16 ∧ mix 0x1000 = 0x1040#16 ∧ mix 0x0100 = 0x0104#16 ∧ mix 0xFFFF = 0x6666#16 := by decide
theorem test_invMix : invMix 0x1234 = 0xF9A6#16 ∧ invMix 0x0010 = 0x2090#16 ∧ invMix 0x0001 = 0x0209#16 ∧ invMix 0xFFAF = 0x9383#16 := by
  decide
theorem test_keyMix : keyMix16 0x4142 0x4AF4 = 0x0BB6#16 := by decide
theorem test_substituteByte : substituteByte 0xF4 = 0x7D#8 ∧ substituteByte 0x43 = 0xDB#8 := by decide
theorem test_expand16 :
    expand16 0x1234 = ⟨0x1234#16, 0x2F1B#16, 0x5C47#16⟩ ∧ expand16 0x0001 = ⟨0x0001#16, 0x1415#16, 0x6570#16⟩ := by decide
theorem test_expand8 : expand8 0x2D55 = ⟨0x2D#8, 0x55#8, 0xBC#8⟩ ∧ expand8 0x8000 = ⟨0x80#8, 0x00#8, 0x99#8⟩ := by decide

/-! ## The cipher (95_test_vectors.md, 2.4 to 2.7) -/

theorem test_enc16 : enc16 0x4142 0x4AF4 = 0x8AD0#16 ∧ enc16 0x1234 0xA73B = 0xB6A8#16 ∧ enc16 0x4142 0x4AF5 = 0x4951#16 := by decide
theorem test_dec16 : dec16 0x8AD0 0x4AF4 = 0x4142#16 ∧ dec16 0x1234 0xFFFF = 0x2A81#16 := by decide
theorem test_enc8 : enc8 0x41 0x4AF4 = 0x32#8 ∧ enc8 0x5A 0xFFFF = 0x77#8 := by decide
theorem test_dec8 : dec8 0x32 0x4AF4 = 0x41#8 ∧ dec8 0x42 0x0000 = 0xFB#8 := by decide
/-- The negative vectors: decryption with Mix (C1), and textbook S-AES (2.5). -/
theorem test_wrong_ciphers : dec16 0x8AD0 0x4AF4 ≠ 0x127F#16 ∧ enc16 0x6F6B 0xA73B = 0xFB14#16 ∧ enc16 0x6F6B 0xA73B ≠ 0x0738#16 := by
  decide
theorem test_double : dencN .v16 0x4AF4 0xA73B 0x0000 = 0xF215#16 ∧ ddecN .v16 0x4AF4 0xA73B 0x4142 = 0xECCE#16 := by decide +kernel
theorem test_triple_two_key : tenc2N .v16 0x4AF4 0xA73B 0x0000 = 0x82E5#16 ∧ tdec2N .v16 0x4AF4 0xA73B 0x4142 = 0x404D#16 := by
  decide +kernel
theorem test_triple_three_key :
    tenc3N .v16 0x4AF4 0xA73B 0x2D55 0x0000 = 0x5EB9#16 ∧ tdec3N .v16 0x4AF4 0xA73B 0x2D55 0x4142 = 0xCF2B#16 := by decide +kernel
theorem test_cascades_v8 :
    dencN .v8 0x4AF4 0xA73B 0x41 = 0xD4#16 ∧ ddecN .v8 0x4AF4 0xA73B 0x41 = 0xDC#16 ∧ tenc2N .v8 0x4AF4 0xA73B 0x41 = 0x7B#16 ∧
    tdec2N .v8 0x4AF4 0xA73B 0x00 = 0x3A#16 ∧ tenc3N .v8 0x4AF4 0xA73B 0x2D55 0x00 = 0x1B#16 ∧
    tdec3N .v8 0x4AF4 0xA73B 0x2D55 0x00 = 0xC7#16 := by decide +kernel
theorem test_cbcEncrypt : cbcEncrypt .v16 0x4AF4 0x1F2E [0x4142, 0x4344, 0x4546] = [0x868B#16, 0x1C43#16, 0x97E4#16] := by decide +kernel
/-- Block 1 of the ciphertext tampered with by 0x0100. -/
theorem test_cbcDecrypt_tampered : cbcDecrypt .v16 0x4AF4 0x1F2E [0x868B, 0x1D43, 0x97E4] = [0x4142#16, 0x4CF4#16, 0x4446#16] := by
  decide +kernel
theorem test_cbc_v8 :
    cbcEncrypt .v8 0x4AF4 0x5A [0x41, 0x42, 0x43] = [0x4E#16, 0x1B#16, 0x88#16] ∧
    cbcDecrypt .v8 0x4AF4 0x5A [0x4E, 0x1A, 0x88] = [0x41#16, 0x4E#16, 0x42#16] := by decide +kernel

/-! ## Commands: what acceptance loads, and the last step of each kind of completion (R96, R70; 95_test_vectors.md, 2.4 and 2.7) -/

theorem test_exec_enc_v8_masks_din :
    nextIs (exec (.enc .v8) (idleState 0x4AF4 0xAB41 0)) (fun t => t.st == 0x0041#16 && t.opl == 1#4 && t.vl == .v8 && t.phase == .start) := by
  decide
theorem test_exec_dec : nextIs (exec (.dec .v16) (idleState 0x4AF4 0x8AD0 0)) (fun t => t.st == 0x8AD0#16 && t.opl == 2#4) := by decide
theorem test_exec_denc_key_of_32_bits :
    nextIs (exec (.denc .v16) (idleState 0xFFFFFFFF 0x4142 0)) (fun t => t.phase == .start && t.opl == 3#4 && t.cml == 0#2) := by decide
theorem test_exec_denc_key_of_33_bits :
    nextIs (exec (.denc .v16) (idleState 0x100000000 0x4142 0)) (fun t => t.phase == .idle && t.err == .keyWidth && t.done) := by decide
theorem test_exec_ddec : nextIs (exec (.ddec .v8) (idleState 0x10000 0x4142 0)) (fun t => t.st == 0x0042#16 && t.opl == 4#4) := by decide
theorem test_exec_tenc2 : nextIs (exec (.tenc2 .v16) (idleState 0x10000 0x4142 0)) (fun t => t.opl == 3#4 && t.cml == 1#2) := by decide
theorem test_exec_tdec2 : nextIs (exec (.tdec2 .v16) (idleState 0x10000 0x4142 0)) (fun t => t.opl == 4#4 && t.cml == 1#2) := by decide
theorem test_exec_tenc3_full_key :
    nextIs (exec (.tenc3 .v16) (idleState 0xFFFFFFFFFFFF 0x4142 0)) (fun t => t.opl == 3#4 && t.cml == 2#2 && t.phase == .start) := by decide
theorem test_exec_tdec3_full_key :
    nextIs (exec (.tdec3 .v16) (idleState 0xFFFFFFFFFFFF 0x4142 0)) (fun t => t.opl == 4#4 && t.cml == 2#2 && t.phase == .start) := by decide
theorem test_exec_cbcenc_mixes_chain :
    nextIs (exec (.cbcenc .v16) (idleState 0x4AF4 0x4142 0x1F2E)) (fun t => t.st == 0x5E6C#16 && t.chain == 0x1F2E#16) := by decide
theorem test_exec_cbcdec_does_not :
    nextIs (exec (.cbcdec .v16) (idleState 0x4AF4 0x868B 0x1F2E)) (fun t => t.st == 0x868B#16 && t.opl == 6#4) := by decide
theorem test_exec_kexp_keeps_st :
    nextIs (exec (.kexp .v16) { idleState 0x4AF4 0x4142 0 with st := 0x5555 }) (fun t => t.st == 0x5555#16 && t.opl == 7#4) := by decide
theorem test_exec_kexp_key_of_17_bits :
    nextIs (exec (.kexp .v16) (idleState 0x10000 0 0)) (fun t => t.err == .keyWidth && t.rk0 == 0#16 && t.phase == .idle) := by decide

theorem test_start_loads_the_schedule :
    nextIs (sequencerStep (busyState 1 0 .start 0)) (fun t => t.rk1 == 0xB743#16 && t.rk2 == 0x5C1F#16 && t.phase == .run 0) := by decide
theorem test_start_v8_extends_the_schedule :
    nextIs (sequencerStep { busyState 1 0 .start 0 with vl := .v8 })
      (fun t => t.rk0 == 0x004A#16 && t.rk1 == 0x00F4#16 && t.rk2 == 0x00B7#16) := by decide
/-- RUN(3) of the encryption trace in 2.4: MIX takes 9383 to FFAF. -/
theorem test_run_mix :
    nextIs (sequencerStep { busyState 1 0 (.run 3) 0 with st := 0x9383 }) (fun t => t.st == 0xFFAF#16 && t.phase == .run 4) := by decide
/-- RUN(4) of the decryption trace in 2.4: IMIX takes FFAF to 9383. -/
theorem test_run_imix :
    nextIs (sequencerStep { busyState 2 0 (.run 4) 0 with st := 0xFFAF }) (fun t => t.st == 0x9383#16 && t.phase == .run 5) := by decide
/-- RUN(7) of the encryption trace: the last step goes to SDONE; and V8's last is RUN(6). -/
theorem test_run_last :
    nextIs (sequencerStep { busyState 1 0 (.run 7) 0 with st := 0xD6CF, rk2 := 0x5C1F })
      (fun t => t.st == 0x8AD0#16 && t.phase == .sdone) ∧
    nextIs (sequencerStep { busyState 1 0 (.run 6) 0 with vl := .v8, st := 0x0085, rk2 := 0x00B7 })
      (fun t => t.st == 0x0032#16 && t.phase == .sdone) := by decide
theorem test_done_next_stage :
    nextIs (sequencerStep (busyState 3 0 .sdone 0)) (fun t => t.stage == 1 && t.phase == .start && !t.done) := by decide
/-- CBCDEC reads CHAIN before it replaces it: 5E6C ^ 1F2E = 4142. -/
theorem test_complete_cbcdec :
    nextIs (sequencerStep { busyState 6 0 .sdone 0 with din := 0x868B, st := 0x5E6C })
      (fun t => t.dout == 0x4142#16 && t.chain == 0x868B#16 && t.done && t.phase == .idle) := by decide
theorem test_complete_kexp :
    nextIs (sequencerStep { busyState 7 0 .sdone 0 with dout := 0x1111 }) (fun t => t.dout == 0x1111#16 && t.done && t.phase == .idle) := by
  decide

/-! ## STATUS, dropped writes and reset (95_test_vectors.md, 2.10), one step each -/

theorem test_status_done : ({ State.reset with done := true, err := .illegal }).hostRead 0x1 = 0x0006#16 := by decide
theorem test_status_keyWidth : ({ State.reset with done := true, err := .keyWidth }).hostRead 0x1 = 0x000A#16 := by decide
theorem test_status_write_keeps_wovr :
    nextIs (step { State.reset with done := true, wovr := true, script := [.write 0x1 0x0002] })
      (fun t => t.hostRead 0x1 == 0x0010#16) := by decide
theorem test_status_write_keeps_done :
    nextIs (step { State.reset with done := true, wovr := true, script := [.write 0x1 0x0010] })
      (fun t => t.hostRead 0x1 == 0x0002#16) := by decide
theorem test_busy_write_dropped :
    nextIs (step { busyState 1 0 (.run 2) 0 with script := [.write 0x2 0x0000] })
      (fun t => t.hostRead 0x1 == 0x0011#16 && t.din == 0x4142#16) := by decide
theorem test_busy_command_dropped :
    nextIs (step { busyState 1 0 (.run 2) 0 with script := [.write 0x0 0x0002] })
      (fun t => t.hostRead 0x1 == 0x0011#16 && t.opl == 1#4 && t.phase == .run 2) := by decide
theorem test_read_only_write_ignored :
    nextIs (step { State.reset with dout := 0x1111, script := [.write 0x3 0x1234] }) (fun t => t.dout == 0x1111#16 && !t.wovr) := by decide
theorem test_read_logged : nextIs (step { State.reset with chain := 0x1F2E, script := [.read 0x7] }) (fun t => t.readLog == [(0x7, 0x1F2E)]) := by
  decide
theorem test_reset_while_busy :
    nextIs (step { busyState 1 0 (.run 4) 0 with rk0 := 0x4AF4, script := [.reset] })
      (fun t => t == { State.reset with script := t.script }) := by decide
theorem test_illegal_before_keyWidth :
    nextIs (step { idleState 0x100004AF4 0 0 with script := [.write 0x0 0x0033] }) (fun t => t.hostRead 0x1 == 0x0006#16) := by decide
theorem test_keyWidth_rejection :
    nextIs (step { idleState 0x14AF4 0x4142 0 with script := [.write 0x0 0x0001] })
      (fun t => t.hostRead 0x1 == 0x000A#16 && t.st == 0#16 && t.phase == .idle) := by decide
/-- The first step after reset with a table word placed runs that command. -/
theorem test_withFetchWord :
    nextIs (step (State.reset.withFetchWord 16 0x0023)) (fun t => t.phase == .start && t.opl == 3#4 && t.cml == 2#2 && t.script == []) := by
  decide
theorem test_kexp_on_reset : nextIs (step (State.reset.withFetchWord 16 0x0047)) (fun t => t.phase == .start && t.vl == .v8) := by decide
theorem test_poll_busy :
    nextIs (step { busyState 1 0 .sdone 0 with script := [.poll] }) (fun t => t.script == [.sequencer, .poll] && t.readLog == [(0x1, 0x0001)]) := by
  decide

/-! ## Witnesses: states and operands that meet the hypotheses of the statements -/

/-- A block at START of ENC meets the invariant. -/
theorem startState_inv : ControlInv (busyState 1 0 .start 0) where
  busyNotDone := by decide
  errOnlyDone := by decide
  idleStage := by decide
  planned := fun _ => ⟨⟨some .encrypt, 0x4AF4⟩, by decide⟩
  roundInSeq := fun i h => by cases h
  narrowKey := by decide
  cascadeKey := by decide
  narrowSt := by decide
  schedule := fun _ h => absurd rfl h

/-- So does one at RUN(7), the last round step, with its schedule loaded. -/
theorem runState_inv :
    ControlInv { busyState 1 0 (.run 7) 0 with rk0 := 0x4AF4, rk1 := 0xB743, rk2 := 0x5C1F } where
  busyNotDone := by decide
  errOnlyDone := by decide
  idleStage := by decide
  planned := fun _ => ⟨⟨some .encrypt, 0x4AF4⟩, by decide⟩
  roundInSeq := fun i h => ⟨.encrypt, 0x4AF4, by decide, by cases h; decide⟩
  narrowKey := by decide
  cascadeKey := by decide
  narrowSt := by decide
  schedule := fun _ _ stg h => by
    have e : stg = ⟨some .encrypt, 0x4AF4⟩ := by
      have h' : some (⟨some .encrypt, 0x4AF4⟩ : Stage) = some stg := h
      exact (Option.some.inj h').symm
    subst e
    decide

/-- StepRunsTheDecodedCommand: no script; a script with a legal word; one with an illegal word. -/
theorem test_witness_stepRuns :
    State.reset.script = [] ∧
    ({ State.reset with script := [.write 0x0#4 0x0007#16] }).script = .write 0x0#4 0x0007#16 :: [] ∧ decode 0x0007#16 = .ok (.kexp .v16) ∧
    ({ State.reset with script := [.write 0x0#4 0x000F#16] }).script = .write 0x0#4 0x000F#16 :: [] ∧
    decode 0x000F#16 = .error .reservedOp := by decide

/-- MissingAccessIsRefused. -/
theorem test_witness_missingAccess :
    ({ State.reset with script := [.badAccess .outsideSpace] }).script = .badAccess .outsideSpace :: [] := by decide

/-- IllegalWordsAreExactlyThoseOfTheRule: an idle state; OP at the edges of case 1, and a word of each other case; legal words beside them. -/
theorem test_witness_illegalWords :
    State.reset.phase = .idle ∧ wordIllegal 0x0000#16 = true ∧ wordIllegal 0x0008#16 = true ∧ wordIllegal 0x0007#16 = false ∧
    wordIllegal 0x0033#16 = true ∧ wordIllegal 0x0023#16 = false ∧ wordIllegal 0x0012#16 = true ∧ wordIllegal 0x0081#16 = true ∧
    wordIllegal 0x0041#16 = false := by decide

/-- MaskedWordSelectsTheRow, both variants. -/
theorem test_witness_maskedWord :
    ((0x0023#16).getLsbD 6 = true ↔ Variant.v16 = .v8) ∧ ((0x0063#16).getLsbD 6 = true ↔ Variant.v8 = .v8) ∧
    0x0063#16 &&& 0xFFBF#16 = 0x0023#16 := by decide

/-- HostReadReturnsTheRegister: the first and last reserved address; a step that stays busy; START with its stage; a step elsewhere. -/
theorem test_witness_hostRead :
    0xB ≤ (0xB#4).toNat ∧ 0xB ≤ (0xF#4).toNat ∧ ¬ 0xB ≤ (0xA#4).toNat ∧
    nextIs (sequencerStep (busyState 1 0 .start 0)) (fun t => t.phase != .idle) ∧
    (busyState 1 0 .start 0).currentStage = some ⟨some .encrypt, 0x4AF4#16⟩ ∧
    nextIs (sequencerStep (busyState 1 0 .sdone 0)) (fun t => t.phase == .idle) := by decide

/-- HostWriteStoresIgnoresOrDrops and BusyWritesAreDropped: idle, busy, and each end of the address ranges. -/
theorem test_witness_hostWrite :
    State.reset.phase = .idle ∧ (busyState 1 0 .start 0).phase ≠ .idle ∧ 0x0#4 ∈ droppedAddrs ∧ 0x7#4 ∈ droppedAddrs ∧
    0x1#4 ∉ droppedAddrs ∧ 0x3#4 ∉ droppedAddrs ∧ 0x8#4 ∉ droppedAddrs ∧ 8 ≤ (0x8#4).toNat ∧ 8 ≤ (0xF#4).toNat ∧
    ¬ 8 ≤ (0x7#4).toNat := by decide

/-- KeyWindowsAreIndependent: each window written in an idle block. -/
theorem test_witness_keyWindows :
    nextIs (occur (.write 0x4#4 0x0001) State.reset) (fun t => t.key == 0x0001#48) ∧
    nextIs (occur (.write 0x5#4 0x0001) State.reset) (fun t => t.key == 0x10000#48) ∧
    nextIs (occur (.write 0x6#4 0x0001) State.reset) (fun t => t.key == 0x100000000#48) := by decide

/-- BusyWritesAreDropped: WOVR set by a dropped write, cleared by a status write and by reset; an event that leaves a command in progress. -/
theorem test_witness_wovr :
    nextIs (occur (.write 0x7#4 0x0001) (busyState 1 0 .sdone 0)) (fun t => t.wovr && t.phase == .sdone) ∧
    nextIs (occur (.write 0x1#4 0x0010) { State.reset with wovr := true }) (fun t => !t.wovr) ∧
    nextIs (occur .reset { State.reset with wovr := true }) (fun t => !t.wovr) := by decide

/-- DispatchRejectsOrAccepts, KeyWidthCheckOfEachCommand, RejectionIsPrecise: an idle block; an illegal word; keys one bit too wide for
ENC and for DENC, and keys just narrow enough; a rejection of each code. -/
theorem test_witness_dispatch :
    (idleState 0x10000 0 0).phase = .idle ∧ wordIllegal 0x0017#16 = true ∧ wordIllegal 0x0001#16 = false ∧ wordIllegal 0x0003#16 = false ∧
    (idleState 0x10000 0 0).key.extractLsb' 16 32 ≠ 0#32 ∧ (idleState 0xFFFF 0 0).key.extractLsb' 16 32 = 0#32 ∧
    (idleState 0x100000000 0 0).key.extractLsb' 32 16 ≠ 0#16 ∧ (idleState 0xFFFFFFFF 0 0).key.extractLsb' 32 16 = 0#16 ∧
    nextIs (commandWrite 0x0017#16 State.reset) (fun t => t.phase == .idle && t.err == .illegal) ∧
    nextIs (commandWrite 0x0001#16 (idleState 0x10000 0 0)) (fun t => t.phase == .idle && t.err == .keyWidth) := by decide

/-- The statements of ENC, DEC, CBCENC, CBCDEC and KEXP: each clause's hypotheses. -/
theorem test_witness_narrow_commands :
    (idleState 0xFFFF 0xAB41 0x775A).phase = .idle ∧ (idleState 0xFFFF 0xAB41 0x775A).key.extractLsb' 16 32 = 0#32 ∧
    (idleState 0x800000000000 0 0).key.extractLsb' 16 32 ≠ 0#32 ∧ (busyState 1 0 .start 0).phase ≠ .idle ∧
    (fieldOp 0x0011#16 = 0x1#4 ∧ fieldCm 0x0011#16 ≠ 0b00#2) ∧ (fieldOp 0x0082#16 = 0x2#4 ∧ fieldRsv 0x0082#16 ≠ 0#9) ∧
    (fieldOp 0x0035#16 = 0x5#4 ∧ fieldCm 0x0035#16 ≠ 0b00#2) ∧ (fieldOp 0x8006#16 = 0x6#4 ∧ fieldRsv 0x8006#16 ≠ 0#9) ∧
    (fieldOp 0x0027#16 = 0x7#4 ∧ fieldCm 0x0027#16 ≠ 0b00#2) := by decide

/-- The statements of the cascades: each clause's hypotheses. -/
theorem test_witness_cascade_commands :
    (idleState 0x4AF4A73B 0x4142 0).phase = .idle ∧ (idleState 0x4AF4A73B 0x4142 0).key.extractLsb' 32 16 = 0#16 ∧
    (idleState 0x800000000000 0 0).key.extractLsb' 32 16 ≠ 0#16 ∧ (idleState 0x4AF4A73B2D55 0x4142 0).phase = .idle := by decide

/-- CbcRoundTrips and CbcTamperingPropagatesOnce: blocks of the variant's width, and a nonzero change of that width. -/
theorem test_witness_cbc :
    (∀ b ∈ [0x0041#16, 0x00FF#16], maskN .v8 b = b) ∧ maskN .v8 0x0001#16 = 0x0001#16 ∧ 0x0001#16 ≠ 0x0000#16 := by
  refine ⟨?_, by decide, by decide⟩
  rintro b hb
  simp only [List.mem_cons, List.not_mem_nil, or_false] at hb
  rcases hb with rfl | rfl <;> decide

/-- CbcTraversalComputesCbc: an idle state with an empty log and either traversal as its script. -/
theorem test_witness_traversal :
    ({ State.reset with script := cbcTraversal (.cbcenc .v16) 0x4AF4 0x1F2E [0x4142] }).phase = .idle ∧
    ({ State.reset with script := cbcTraversal (.cbcdec .v8) 0x4AF4 0x5A [0x4E, 0x1B] }).readLog = [] ∧
    cbcTraversal (.cbcenc .v16) 0x4AF4 0x1F2E [0x4142] =
      [.write 0x4 0x4AF4, .write 0x5 0x0000, .write 0x6 0x0000, .write 0x7 0x1F2E, .write 0x2 0x4142, .write 0x0 0x0005, .poll, .read 0x3] := by
  decide

/-- InverseDiffusion: a word that is its own image, and one that is not. -/
theorem test_witness_mix : mix (mix 0x0000#16) = 0x0000#16 ∧ mix (mix 0x0001#16) ≠ 0x0001#16 := by decide

/-- FieldMultiplicationLaws: a nonzero element and its inverse. -/
theorem test_witness_gmul : (0x9#4 : Nibble) ≠ 0x0#4 ∧ gmul 0x9#4 0x2#4 = 0x1#4 := by decide

/-- PhaseWalkIgnoresData: two states alike in control that differ in data, and a step of one. -/
theorem test_witness_phaseWalk :
    (busyState 1 0 (.run 6) 0).phase = ({ busyState 1 0 (.run 6) 0 with st := 0x0001, din := 0x0002 }).phase ∧
    nextIs (sequencerStep (busyState 1 0 (.run 6) 0)) (fun t => t.phase == .run 7) ∧ State.reset.phase = .idle := by decide

/-- StageBoundariesOfTheSequencer: START; a stage that is not the last; a last stage for each kind of completion. -/
theorem test_witness_stageBoundaries :
    (busyState 4 1 .start 2).currentStage.isSome = true ∧ (busyState 4 1 .sdone 1).stage.val + 1 < (busyState 4 1 .sdone 1).plan.length ∧
    (busyState 4 1 .sdone 2).plan.length ≤ (busyState 4 1 .sdone 2).stage.val + 1 ∧
    (busyState 5 0 .sdone 0).plan.length ≤ (busyState 5 0 .sdone 0).stage.val + 1 ∧ (busyState 6 0 .sdone 0).currentStage.isSome = true ∧
    (busyState 7 0 .sdone 0).currentStage.isSome = true := by decide

/-- RoundSequencesComputeTheCipher: a loaded schedule; the last round step of each variant. -/
theorem test_witness_roundSequences :
    (⟨0x4AF4, 0xB743, 0x5C1F⟩ : Schedule 16) = expand .v16 0x4AF4#16 ∧
    (busyState 1 0 (.run 7) 0).currentStage = some ⟨some .encrypt, 0x4AF4#16⟩ ∧ (seq .encrypt .v16)[7]? = some .km2 ∧
    (seq .decrypt .v8)[6]? = some .km0 ∧ (seq .decrypt .v8)[7]? = none := by decide

/-- AcceptedCommandsCompleteOnTime and InterleavingDoesNotChangeResults: an accepted KEXP, and events with one sequencer step among them. -/
theorem test_witness_accepted :
    State.reset.phase = .idle ∧ nextIs (exec (.kexp .v16) State.reset) (fun t => t.phase != .idle) ∧
    (∀ e ∈ [Event.write 0x2#4 0x1234#16, .sequencer, .read 0x8#4], e.inside = true) ∧
    [Event.write 0x2#4 0x1234#16, .sequencer, .read 0x8#4].count .sequencer + 1 = stepCount (.kexp .v16) := by decide

/-- PollEnds: the invariant at START (startState_inv) with a POLL to come. -/
theorem test_witness_poll : ControlInv { busyState 1 0 .start 0 with script := [.poll] } :=
  { startState_inv with }

/-- HostLinesDoWhatTheyAbbreviate: the three lines as scripts. -/
theorem test_witness_hostLines :
    HostLine.events (.wrkey 0x4AF4A73B2D55) ++ [] = [.write 0x4 0x2D55, .write 0x5 0xA73B, .write 0x6 0x4AF4] ∧
    HostLine.events .clr ++ [] = [.write 0x1 0x0012] ∧ HostLine.events (.cmd (.tenc3 .v8)) ++ [] = [.write 0x0 0x0063] := by decide

/-- ResultRegistersChangeOnlyByRule and PhaseMovesOnlyByRule: each register changed by its rule, and each way `phase` moves. -/
theorem test_witness_results :
    nextIs (occur .sequencer (busyState 1 0 .sdone 0)) (fun t => t.dout != 0x0000#16 && t.phase == .idle) ∧
    nextIs (occur .sequencer (busyState 5 0 .sdone 0)) (fun t => t.chain != 0x1F2E#16) ∧
    nextIs (occur (.write 0x7#4 0x0001) State.reset) (fun t => t.chain != 0x0000#16) ∧
    nextIs (occur .sequencer (busyState 7 0 .start 0)) (fun t => t.rk0 != 0x0000#16) ∧
    nextIs (occur (.write 0x0#4 0x0001) State.reset) (fun t => t.phase == .start) ∧
    nextIs (occur .reset (busyState 1 0 .start 0)) (fun t => t.phase == .idle) := by decide

/-- StepKeepsTheControlInvariant and StepNeverStops: a step from a state of the invariant (startState_inv), with no missing access. -/
theorem test_witness_invariant :
    nextIs (step (busyState 1 0 .start 0)) (fun t => t.phase == .run 0) ∧ (busyState 1 0 .start 0).script = [] := by decide

/-- BusyReadsAreDefined: busy past START (runState_inv), and WOVR both ways. -/
theorem test_witness_busyReads :
    (busyState 1 0 (.run 7) 0).phase ≠ .idle ∧ (busyState 1 0 (.run 7) 0).phase ≠ .start ∧
    (busyState 1 0 .start 0).hostRead 0x1 = 0x0001#16 ∧ ({ busyState 1 0 .start 0 with wovr := true }).hostRead 0x1 = 0x0011#16 := by decide

end Sys2Proof.Machine.Tests
end

section
/-! PROOFS. The words the decoder rejects (rule R40): what each field decoder rejects, the decoder from them, and the illegal words as those
that encode no command. -/

namespace Sys2Proof

open Sys2Proof.Machine

/-! ## What each field decoder rejects -/

theorem decodePlain_error_iff (op : BitVec 4) (v : Variant) :
    (∃ x, decodePlain op v = .error x) ↔ op = 0x0#4 ∨ op = 0x3#4 ∨ op = 0x4#4 ∨ 8 ≤ op.toNat := by
  have hop := op.isLt
  simp only [← BitVec.toNat_inj, BitVec.toNat_ofNat]
  unfold decodePlain
  split <;> grind

theorem decodeCascadeEnc_error_iff (cm : BitVec 2) (v : Variant) :
    (∃ x, decodeCascadeEnc cm v = .error x) ↔ cm = 0b11#2 := by
  have hcm := cm.isLt
  rw [← BitVec.toNat_inj, BitVec.toNat_ofNat]
  unfold decodeCascadeEnc
  split <;> grind

theorem decodeCascadeDec_error_iff (cm : BitVec 2) (v : Variant) :
    (∃ x, decodeCascadeDec cm v = .error x) ↔ cm = 0b11#2 := by
  have hcm := cm.isLt
  rw [← BitVec.toNat_inj, BitVec.toNat_ofNat]
  unfold decodeCascadeDec
  split <;> grind

/-! ## What the decoder does with a word -/

/-- Everything the decoder can do: RSV and OP choose the field decoder, and the plain operations want CM = 0b00 (R34, R36). -/
theorem decode_cases (w : Word) :
    (fieldRsv w ≠ 0#9 ∧ decode w = .error .reservedBits) ∨
    (fieldRsv w = 0#9 ∧ fieldOp w = 0x3#4 ∧ decode w = decodeCascadeEnc (fieldCm w) (fieldV w)) ∨
    (fieldRsv w = 0#9 ∧ fieldOp w = 0x4#4 ∧ decode w = decodeCascadeDec (fieldCm w) (fieldV w)) ∨
    (fieldRsv w = 0#9 ∧ (fieldOp w ≠ 0x3#4 ∧ fieldOp w ≠ 0x4#4) ∧ fieldCm w ≠ 0b00#2 ∧ ∃ x, decode w = .error x) ∨
    (fieldRsv w = 0#9 ∧ (fieldOp w ≠ 0x3#4 ∧ fieldOp w ≠ 0x4#4) ∧ fieldCm w = 0b00#2 ∧
      decode w = decodePlain (fieldOp w) (fieldV w)) := by
  by_cases hr : fieldRsv w = 0#9
  · by_cases h3 : fieldOp w = 0x3#4
    · exact .inr (.inl ⟨hr, h3, by simp [decode, hr, h3]⟩)
    · by_cases h4 : fieldOp w = 0x4#4
      · exact .inr (.inr (.inl ⟨hr, h4, by simp [decode, hr, h4]⟩))
      · by_cases hcm : fieldCm w = 0b00#2
        · refine .inr (.inr (.inr (.inr ⟨hr, ⟨h3, h4⟩, hcm, ?_⟩)))
          cases hplain : decodePlain (fieldOp w) (fieldV w) <;> simp [decode, hr, h3, h4, hcm, hplain]
        · refine .inr (.inr (.inr (.inl ⟨hr, ⟨h3, h4⟩, hcm, ?_⟩)))
          cases hplain : decodePlain (fieldOp w) (fieldV w) <;> simp [decode, hr, h3, h4, hcm, hplain]
  · exact .inl ⟨hr, by simp [decode, hr]⟩

/-! ## The decoder rejects the illegal words -/

/-- R40's four cases, in its order. -/
theorem wordIllegal_iff (w : Word) :
    wordIllegal w = true ↔
      (fieldOp w = 0x0#4 ∨ 8 ≤ (fieldOp w).toNat) ∨
      ((fieldOp w = 0x3#4 ∨ fieldOp w = 0x4#4) ∧ fieldCm w = 0b11#2) ∨
      ((fieldOp w ≠ 0x3#4 ∧ fieldOp w ≠ 0x4#4) ∧ fieldCm w ≠ 0b00#2) ∨
      fieldRsv w ≠ 0#9 := by
  simp [wordIllegal, BitVec.ule, or_assoc]

theorem decode_error_iff_wordIllegal (w : Word) : (∃ x, decode w = .error x) ↔ wordIllegal w = true := by
  rw [wordIllegal_iff]
  rcases decode_cases w with ⟨hr, e⟩ | ⟨hr, hop, e⟩ | ⟨hr, hop, e⟩ | ⟨hr, hop, hcm, e⟩ | ⟨hr, hop, hcm, e⟩
  · simp [e, hr]
  · rw [e, decodeCascadeEnc_error_iff]
    simp [hr, hop]
  · rw [e, decodeCascadeDec_error_iff]
    simp [hr, hop]
  · simp [e, hop, hcm]
  · rw [e, decodePlain_error_iff]
    simp [hr, hop, hcm]

theorem decode_ok_iff_legal (w : Word) : (∃ i, decode w = .ok i) ↔ wordIllegal w = false := by
  rw [← Bool.not_eq_true, ← decode_error_iff_wordIllegal]
  cases decode w <;> simp

/-! ## The legal words are the encodings -/

theorem eq_encode_of_decode {w : Word} {i : Instr} (h : decode w = .ok i) : w = encode i := by
  rcases decode_cases w with ⟨_, e⟩ | ⟨hr, hop, e⟩ | ⟨hr, hop, e⟩ | ⟨_, _, _, x, e⟩ | ⟨hr, _, hcm, e⟩ <;> rw [e] at h
  · cases h
  · rw [encode_of_decodeCascadeEnc h, ← hop, ← word_eq_commandWord hr]
  · rw [encode_of_decodeCascadeDec h, ← hop, ← word_eq_commandWord hr]
  · cases h
  · rw [encode_of_decodePlain h, ← hcm, ← word_eq_commandWord hr]

theorem wordIllegal_encode (i : Instr) : wordIllegal (encode i) = false := by
  have fields : Laws.WordFields.Statement i := by
    cases i with
    | enc v => exact Laws.WordFields.enc v
    | dec v => exact Laws.WordFields.dec v
    | denc v => exact Laws.WordFields.denc v
    | ddec v => exact Laws.WordFields.ddec v
    | tenc2 v => exact Laws.WordFields.tenc2 v
    | tdec2 v => exact Laws.WordFields.tdec2 v
    | tenc3 v => exact Laws.WordFields.tenc3 v
    | tdec3 v => exact Laws.WordFields.tdec3 v
    | cbcenc v => exact Laws.WordFields.cbcenc v
    | cbcdec v => exact Laws.WordFields.cbcdec v
    | kexp v => exact Laws.WordFields.kexp v
  obtain ⟨_, _, hlegal, _⟩ := fields
  exact hlegal

/-- "Every word is either one row of rule R38 with a V value, or illegal" (R40). -/
theorem legal_iff_encode (w : Word) : wordIllegal w = false ↔ ∃ i, w = encode i := by
  rw [← decode_ok_iff_legal]
  constructor
  · rintro ⟨i, hi⟩
    exact ⟨i, eq_encode_of_decode hi⟩
  · rintro ⟨i, rfl⟩
    exact (decode_ok_iff_legal _).2 (wordIllegal_encode i)

/-! ## An idle block rejects an illegal word -/

theorem commandWrite_of_illegal {w : Word} {s : State} (hidle : s.phase = .idle) (hw : wordIllegal w = true) :
    commandWrite w s = .next (s.reject .illegal) := by
  obtain ⟨x, hx⟩ := (decode_error_iff_wordIllegal w).2 hw
  simp only [commandWrite, hx, illegalCommand, State.whenIdle_of_idle hidle]

/-- Settles O6: the decoder's rejections, R40's cases and wordIllegal agree by `decode_error_iff_wordIllegal` and `wordIllegal_iff`. -/
theorem illegalWordsAreExactlyThoseOfTheRule : Obligations.IllegalWordsAreExactlyThoseOfTheRule := by
  intro w
  refine ⟨?_, (decode_error_iff_wordIllegal w).symm, ?_, legal_iff_encode w⟩
  · exact (decode_error_iff_wordIllegal w).trans (wordIllegal_iff w)
  · intro s hidle hw
    exact commandWrite_of_illegal hidle hw

end Sys2Proof
end

section
/-! PROOFS. The block cipher inverts (rule R62): each layer inverts, hence so do the two ciphers and their forms on ST. -/

namespace Sys2Proof.Machine

/-! ## Packing the four, or two, nibbles of a block (R44) -/

@[simp] theorem pack16_nibbles (x : Word) :
    pack16 ⟨(decode16 x).s0, (decode16 x).s1, (decode16 x).s2, (decode16 x).s3⟩ = x := pack16_decode16 x

@[simp] theorem pack8_nibbles (x : Byte) : pack8 ⟨(decode8 x).s0, (decode8 x).s1⟩ = x := pack8_decode8 x

/-! ## The layers (R46, R48, R51, R53, R54) -/

@[simp] theorem invSubNib16_subNib16 (x : Word) : invSubNib16 (subNib16 x) = x := by simp [invSubNib16, subNib16]

@[simp] theorem subNib16_invSubNib16 (x : Word) : subNib16 (invSubNib16 x) = x := by simp [invSubNib16, subNib16]

@[simp] theorem invSubNib8_subNib8 (x : Byte) : invSubNib8 (subNib8 x) = x := by simp [invSubNib8, subNib8]

@[simp] theorem subNib8_invSubNib8 (x : Byte) : subNib8 (invSubNib8 x) = x := by simp [invSubNib8, subNib8]

@[simp] theorem perm16_perm16 (x : Word) : perm16 (perm16 x) = x := by simp [perm16]

@[simp] theorem perm8_perm8 (x : Byte) : perm8 (perm8 x) = x := rfl

/-- The nibbles s0, s2 and s1, s3 are two pairs, each mapped by the same matrix. -/
@[simp] theorem invMix_mix (x : Word) : invMix (mix x) = x := by
  simp [invMix, mix, gmul_invMix_mix_first, gmul_invMix_mix_second]

@[simp] theorem mix_invMix (x : Word) : mix (invMix x) = x := by
  simp [invMix, mix, gmul_mix_invMix_first, gmul_mix_invMix_second]

@[simp] theorem keyMix16_keyMix16 (x k : Word) : keyMix16 (keyMix16 x k) k = x := by simp [keyMix16]

@[simp] theorem keyMix8_keyMix8 (x k : Byte) : keyMix8 (keyMix8 x k) k = x := by simp [keyMix8]

/-! ## The ciphers (R60, R61) -/

@[simp] theorem dec16_enc16 (b k : Word) : dec16 (enc16 b k) k = b := by simp [dec16, enc16]

@[simp] theorem enc16_dec16 (b k : Word) : enc16 (dec16 b k) k = b := by simp [dec16, enc16]

@[simp] theorem dec8_enc8 (b : Byte) (k : Word) : dec8 (enc8 b k) k = b := by simp [dec8, enc8]

@[simp] theorem enc8_dec8 (b : Byte) (k : Word) : enc8 (dec8 b k) k = b := by simp [dec8, enc8]

@[simp] theorem decN_encN (v : Variant) (x k : Word) : decN v (encN v x k) k = maskN v x := by
  cases v <;> simp [decN, encN, onBlock, maskN]

@[simp] theorem encN_decN (v : Variant) (x k : Word) : encN v (decN v x k) k = maskN v x := by
  cases v <;> simp [decN, encN, onBlock, maskN]

end Sys2Proof.Machine

namespace Sys2Proof

open Sys2Proof.Machine

/-- Settles O27: decryption undoes encryption layer by layer, so each cipher has a two-sided inverse and is bijective. -/
theorem blockCipherRoundTrips : Obligations.BlockCipherRoundTrips := by
  refine ⟨fun b k => ⟨dec16_enc16 b k, enc16_dec16 b k⟩, fun b k => ⟨dec8_enc8 b k, enc8_dec8 b k⟩, ?_, ?_⟩
  · intro k
    exact Function.bijective_iff_has_inverse.2 ⟨(dec16 · k), (dec16_enc16 · k), (enc16_dec16 · k)⟩
  · intro k
    exact Function.bijective_iff_has_inverse.2 ⟨(dec8 · k), (dec8_enc8 · k), (enc8_dec8 · k)⟩

end Sys2Proof
end

section
/-! PROOFS. The sequencer's stage boundaries (rules R67, R69, R70): what completion writes for each OPL, and a command's last stage as a run
to completion. -/

namespace Sys2Proof.Machine

/-! ## What completion writes (R70) -/

theorem State.writeResults_of_block {s : State} (h5 : s.opl ≠ 0x5#4) (h6 : s.opl ≠ 0x6#4) (h7 : s.opl ≠ 0x7#4) :
    s.writeResults = { s with dout := maskN s.vl s.st } := by simp [State.writeResults, h5, h6, h7]

theorem State.writeResults_of_cbcenc {s : State} (h : s.opl = 0x5#4) :
    s.writeResults = { s with dout := maskN s.vl s.st, chain := maskN s.vl s.st } := by simp [State.writeResults, h]

theorem State.writeResults_of_cbcdec {s : State} (h : s.opl = 0x6#4) :
    s.writeResults = { s with dout := maskN s.vl (s.st ^^^ s.chain), chain := maskN s.vl s.din } := by
  simp [State.writeResults, h]

theorem State.writeResults_of_kexp {s : State} (h : s.opl = 0x7#4) : s.writeResults = s := by simp [State.writeResults, h]

/-! ## Completion of a command whose plan is one stage (R66, R85) -/

@[simp] theorem stageOutput_maskN (dir : Dir) (v : Variant) (x k : Word) :
    stageOutput dir v (maskN v x) k = stageOutput dir v x k := by
  cases dir with
  | encrypt => exact encN_maskN v x k
  | decrypt => exact decN_maskN v x k

@[simp] theorem maskN_stageOutput (dir : Dir) (v : Variant) (x k : Word) :
    maskN v (stageOutput dir v x k) = stageOutput dir v x k := by
  cases dir with
  | encrypt => exact maskN_encN v x k
  | decrypt => exact maskN_decN v x k

/-- The last stage, from its START to IDLE. -/
theorem completesIn_of_lastStage {s : State} {dir : Dir} {k : Word} (hp : s.phase = .start)
    (hs : s.currentStage = some ⟨some dir, k⟩) (h7 : s.opl ≠ 0x7#4) (hl : ¬ s.stage.val + 1 < s.plan.length) :
    CompletesIn (stageSteps s.vl) s (s.afterStage dir k).complete := by
  have hsteps : stageSteps s.vl - 1 + 1 = stageSteps s.vl := by cases s.vl <;> rfl
  have hdone : sequencerStep (s.afterStage dir k) = .next (s.afterStage dir k).complete :=
    sequencerStep_complete rfl hs hl
  have run := (stage_run s dir k hp hs h7).snoc (by simp [State.afterStage]) hdone
  rw [hsteps] at run
  exact run.completes rfl

section OneStage

variable {s : State} {op : BitVec 4} {cm : BitVec 2} {v : Variant} {b : Word} {stg : Stage}

theorem accept_currentStage (hplan : plan op cm s.key = [stg]) : (s.accept op cm v b).currentStage = some stg := by
  simp [State.currentStage, State.plan, hplan]

theorem accept_not_nextStage (hplan : plan op cm s.key = [stg]) :
    ¬ (s.accept op cm v b).stage.val + 1 < (s.accept op cm v b).plan.length := by
  simp [State.plan, hplan]

theorem accept_completesIn {dir : Dir} {k : Word} (hplan : plan op cm s.key = [⟨some dir, k⟩]) (h7 : op ≠ 0x7#4) :
    CompletesIn (stageSteps v) (s.accept op cm v b) ((s.accept op cm v b).afterStage dir k).complete :=
  completesIn_of_lastStage rfl (accept_currentStage hplan) h7 (accept_not_nextStage hplan)

/-- A single-block command outside CBC, from acceptance to completion (R71, R72). -/
theorem accept_block_completesIn {dir : Dir} {k : Word} (hplan : plan op cm s.key = [⟨some dir, k⟩])
    (h5 : op ≠ 0x5#4) (h6 : op ≠ 0x6#4) (h7 : op ≠ 0x7#4) :
    CompletesIn (stageSteps v) (s.accept op cm v (maskN v s.din)) { s with
      st := stageOutput dir v s.din k, dout := stageOutput dir v s.din k
      rk0 := (expand v k).rk0, rk1 := (expand v k).rk1, rk2 := (expand v k).rk2
      opl := op, cml := cm, vl := v, stage := 0, phase := .idle, done := true, err := .ok } := by
  convert accept_completesIn hplan h7 using 1
  rw [State.complete, State.writeResults_of_block h5 h6 h7]
  simp [State.afterStage, State.accept]

end OneStage

end Sys2Proof.Machine

namespace Sys2Proof

open Sys2Proof.Machine

/-- Settles O37: the sequencer's transitions at START and SDONE, and `writeResults` by OPL. -/
theorem stageBoundariesOfTheSequencer : Obligations.StageBoundariesOfTheSequencer := by
  intro s stg hs
  refine ⟨fun hp => sequencerStep_start hp hs, fun hp hl => sequencerStep_nextStage hp hs hl, ?_⟩
  intro hp hlast
  have hdone : sequencerStep s = .next s.complete := sequencerStep_complete hp hs (by omega)
  rw [hdone, State.complete]
  refine ⟨fun hblock => ?_, fun h5 => ?_, fun h6 => ?_, fun h7 => ?_⟩
  · rw [State.writeResults_of_block] <;> (rintro h; simp [h] at hblock)
  · rw [State.writeResults_of_cbcenc h5]
  · rw [State.writeResults_of_cbcdec h6]
  · rw [State.writeResults_of_kexp h7]

end Sys2Proof
end

section
/-! PROOFS. The single-block commands ENC, DEC and KEXP (rules R71 to R73): a command's acceptance and its two rejections, then each
command. -/

namespace Sys2Proof.Machine

/-! ## What a command does when it is written (R96, R101, R102, R104) -/

section Exec

variable {i : Instr} {s : State}

theorem exec_of_busy (hbusy : s.phase ≠ .idle) : exec i s = .next s.dropWrite := by
  rcases exec_cases i s with ⟨_, e⟩ | ⟨hidle, _⟩ | ⟨hidle, _⟩
  · exact e
  · exact absurd hidle hbusy
  · exact absurd hidle hbusy

theorem exec_of_keyTooWide (hidle : s.phase = .idle) (hkey : keyTooWide (bitsOf i) s.key = true) :
    exec i s = .next (s.reject .keyWidth) := by
  rw [exec_eq, startCommand, State.whenIdle_of_idle hidle, if_pos hkey]

theorem exec_of_keyFits (hidle : s.phase = .idle) (hkey : keyTooWide (bitsOf i) s.key = false) :
    exec i s = .next (s.accept (opOf i) (cmOf i) i.variant (blockOf i s)) := by
  rw [exec_eq, startCommand, State.whenIdle_of_idle hidle, hkey]
  rfl

end Exec

theorem keyTooWide_k16_eq_true {k : Key} (h : k.extractLsb' 16 32 ≠ 0#32) : keyTooWide .k16 k = true := by
  simpa [keyTooWide] using h

theorem keyTooWide_k16_eq_false {k : Key} (h : k.extractLsb' 16 32 = 0#32) : keyTooWide .k16 k = false := by
  simp [keyTooWide, h]

/-- R40's cases 3 and 4, for an operation that has no mode tag. -/
theorem commandWrite_of_malformed {w : Word} {s : State} {op : BitVec 4} (hidle : s.phase = .idle) (hop : fieldOp w = op)
    (hplain : op ≠ 0x3#4 ∧ op ≠ 0x4#4) (hbad : fieldCm w ≠ 0b00#2 ∨ fieldRsv w ≠ 0#9) :
    commandWrite w s = .next (s.reject .illegal) := by
  subst hop
  refine commandWrite_of_illegal hidle ((wordIllegal_iff w).2 ?_)
  rcases hbad with hcm | hrsv
  · exact .inr (.inr (.inl ⟨hplain, hcm⟩))
  · exact .inr (.inr (.inr hrsv))

/-! ## In V8 the high byte is 0 and is ignored (R13, R58) -/

theorem zext16_highByte (b : Byte) : (zext16 b).extractLsb' 8 8 = 0#8 := by
  apply BitVec.eq_of_getLsbD_eq
  intro i hi
  simp [zext16]

theorem encN_v8_and_00FF (x k : Word) : encN .v8 (x &&& 0x00FF#16) k = encN .v8 x k := by
  rw [← zext16_lowByte]
  exact encN_maskN .v8 x k

/-! ## KEXP's run -/

/-- KEXP's stage runs no round: START goes to SDONE (R67, R73). -/
theorem accept_kexp_completesIn {s : State} {cm : BitVec 2} {v : Variant} {b k : Word}
    (hplan : plan 0x7#4 cm s.key = [⟨none, k⟩]) :
    CompletesIn 2 (s.accept 0x7#4 cm v b) { s with
      st := b, rk0 := (expand v k).rk0, rk1 := (expand v k).rk1, rk2 := (expand v k).rk2
      opl := 0x7#4, cml := cm, vl := v, stage := 0, phase := .idle, done := true, err := .ok } := by
  have hs : (s.accept 0x7#4 cm v b).currentStage = some ⟨none, k⟩ := accept_currentStage hplan
  have hl := accept_not_nextStage (v := v) (b := b) hplan
  refine BusyRun.completes (.cons (by simp) (sequencerStep_start rfl hs) ?_) rfl
  refine .cons (by simp) (sequencerStep_complete rfl hs hl) ?_
  rw [State.complete, State.writeResults_of_kexp rfl]
  exact .zero _

end Sys2Proof.Machine

namespace Sys2Proof

open Sys2Proof.Machine

/-- Settles O16: ENC is accepted into a plan of one E stage, whose run `accept_block_completesIn` gives. -/
theorem encEncryptsDin : Obligations.EncEncryptsDin := by
  have hplan (k : Key) : plan 0x1#4 0b00#2 k = [⟨some .encrypt, keyLow k⟩] := rfl
  refine ⟨rfl, rfl, hplan, fun v s hidle hkey => ?_, fun w s hidle hop hbad => ?_, fun v s hidle hkey => ?_,
    fun v s hbusy => ?_, fun x k => ⟨?_, ?_⟩, ?_⟩
  · refine ⟨_, exec_of_keyFits hidle (keyTooWide_k16_eq_false hkey), rfl, ?_⟩
    exact accept_block_completesIn (hplan s.key) (by decide) (by decide) (by decide)
  · exact commandWrite_of_malformed hidle hop (by decide) hbad
  · exact exec_of_keyTooWide hidle (keyTooWide_k16_eq_true hkey)
  · exact exec_of_busy hbusy
  · exact (encN_v8_and_00FF x k).symm
  · exact zext16_highByte _
  · decide

/-- Settles O17: DEC is accepted into a plan of one D stage; that it undoes ENC is R62. -/
theorem decDecryptsDin : Obligations.DecDecryptsDin := by
  have hplan (k : Key) : plan 0x2#4 0b00#2 k = [⟨some .decrypt, keyLow k⟩] := rfl
  refine ⟨rfl, rfl, hplan, fun v s hidle hkey => ?_, fun w s hidle hop hbad => ?_, fun v s hidle hkey => ?_,
    fun v s hbusy => ?_, decN_encN, ?_⟩
  · refine ⟨_, exec_of_keyFits hidle (keyTooWide_k16_eq_false hkey), rfl, ?_⟩
    exact accept_block_completesIn (hplan s.key) (by decide) (by decide) (by decide)
  · exact commandWrite_of_malformed hidle hop (by decide) hbad
  · exact exec_of_keyTooWide hidle (keyTooWide_k16_eq_true hkey)
  · exact exec_of_busy hbusy
  · decide

/-- Settles O18: KEXP is accepted into a plan of one stage without rounds, whose run `accept_kexp_completesIn` gives. -/
theorem kexpExpandsTheKey : Obligations.KexpExpandsTheKey := by
  have hplan (k : Key) : plan 0x7#4 0b00#2 k = [⟨none, keyLow k⟩] := rfl
  refine ⟨rfl, rfl, hplan, fun v s hidle hkey => ?_, fun w s hidle hop hbad => ?_, fun v s hidle hkey => ?_,
    fun v s hbusy => ?_, fun k => ⟨expand16_rk0 k, rfl, rfl⟩, ?_⟩
  · exact ⟨_, exec_of_keyFits hidle (keyTooWide_k16_eq_false hkey), rfl, accept_kexp_completesIn (hplan s.key)⟩
  · exact commandWrite_of_malformed hidle hop (by decide) hbad
  · exact exec_of_keyTooWide hidle (keyTooWide_k16_eq_true hkey)
  · exact exec_of_busy hbusy
  · decide

end Sys2Proof
end

section
/-! PROOFS. The cascades (rules R75 to R77): a plan of several stages as one run to completion, and what the cascades' functions undo. -/

namespace Sys2Proof.Machine

/-! ## A plan of several stages (R65, R69, R75) -/

/-- The stage of a plan that runs the cipher in a direction under a subkey. -/
def cipherStage (d : Dir × Word) : Stage := ⟨some d.1, d.2⟩

/-- What the stages leave in ST, each reading the ST of the one before it (R65). -/
def cascadeOutput (v : Variant) (x : Word) (stages : List (Dir × Word)) : Word :=
  stages.foldl (fun y d => stageOutput d.1 v y d.2) x

theorem cascadeOutput_cons (v : Variant) (x : Word) (d : Dir × Word) (stages : List (Dir × Word)) :
    cascadeOutput v x (d :: stages) = cascadeOutput v (stageOutput d.1 v x d.2) stages := rfl

/-- Masking the first stage's input changes nothing: that stage ignores the high byte in V8 (R13, R58). -/
theorem cascadeOutput_maskN (v : Variant) (x : Word) {stages : List (Dir × Word)} (h : stages ≠ []) :
    cascadeOutput v (maskN v x) stages = cascadeOutput v x stages := by
  obtain ⟨d, rest, rfl⟩ := List.exists_cons_of_ne_nil h
  rw [cascadeOutput_cons, cascadeOutput_cons, stageOutput_maskN]

/-- Where the plan still holds `stg :: rest` from the current stage on, `stg` is the current stage … -/
theorem currentStage_of_drop {s : State} {stg : Stage} {rest : List Stage} (h : s.plan.drop s.stage.val = stg :: rest) :
    s.currentStage = some stg := by
  rw [State.currentStage, ← Nat.add_zero s.stage.val, ← List.getElem?_drop, h]
  rfl

/-- … and `rest` says how many stages follow. -/
theorem plan_length_of_drop {s : State} {stg : Stage} {rest : List Stage} (h : s.plan.drop s.stage.val = stg :: rest) :
    s.plan.length = s.stage.val + 1 + rest.length := by
  have hlen := congrArg List.length h
  simp only [List.length_drop, List.length_cons] at hlen
  omega

/-- SDONE with a stage left: on to its START (R69). -/
def State.toNextStage (s : State) : State := { s with stage := s.stage + 1, phase := .start }

/-- A stage that is not the last, from its START to the START of the next. -/
theorem busyRun_toNextStage {s : State} {dir : Dir} {k : Word} {rest : List Stage} (hp : s.phase = .start)
    (hplan : s.plan.drop s.stage.val = ⟨some dir, k⟩ :: rest) (hrest : rest ≠ []) (h7 : s.opl ≠ 0x7#4) :
    BusyRun (stageSteps s.vl) s (s.afterStage dir k).toNextStage := by
  have hs := currentStage_of_drop hplan
  have hl : s.stage.val + 1 < s.plan.length := by
    have hpos := List.length_pos_of_ne_nil hrest
    have hlen := plan_length_of_drop hplan
    omega
  have hsteps : stageSteps s.vl - 1 + 1 = stageSteps s.vl := by cases s.vl <;> rfl
  have run := (stage_run s dir k hp hs h7).snoc (by simp [State.afterStage]) (sequencerStep_nextStage rfl hs hl)
  rwa [hsteps] at run

theorem toNextStage_plan_drop {s : State} {dir : Dir} {k : Word} {stg : Stage} {rest : List Stage}
    (hplan : s.plan.drop s.stage.val = stg :: rest) (hrest : rest ≠ []) :
    (s.afterStage dir k).toNextStage.plan.drop (s.afterStage dir k).toNextStage.stage.val = rest := by
  have hval : (s.stage + 1).val = s.stage.val + 1 := by
    have hpos := List.length_pos_of_ne_nil hrest
    have hlen := plan_length_of_drop hplan
    have hmax := plan_length_le s
    exact Fin.val_add_one_of_lt' (by omega)
  calc s.plan.drop (s.stage + 1).val
      = (s.plan.drop s.stage.val).drop 1 := by rw [hval, List.drop_drop]
    _ = rest := by rw [hplan]; rfl

/-- The last stage's ST is the result: completion copies it to DOUT (R70). -/
theorem afterStage_complete {s : State} (dir : Dir) (k : Word) (h5 : s.opl ≠ 0x5#4) (h6 : s.opl ≠ 0x6#4) (h7 : s.opl ≠ 0x7#4) :
    (s.afterStage dir k).complete = { s with
      st := stageOutput dir s.vl s.st k, dout := stageOutput dir s.vl s.st k
      rk0 := (expand s.vl k).rk0, rk1 := (expand s.vl k).rk1, rk2 := (expand s.vl k).rk2
      stage := 0, phase := .idle, done := true, err := .ok } := by
  rw [State.complete, State.writeResults_of_block (s := s.afterStage dir k) h5 h6 h7]
  simp [State.afterStage]

/-- A block command at START, its stages run one after another to completion (R65, R70): by induction on the stages before the last. -/
theorem completesIn_of_stages (init : List (Dir × Word)) (last : Dir × Word) {s : State} (hp : s.phase = .start)
    (hplan : s.plan.drop s.stage.val = init.map cipherStage ++ [cipherStage last])
    (h5 : s.opl ≠ 0x5#4) (h6 : s.opl ≠ 0x6#4) (h7 : s.opl ≠ 0x7#4) :
    CompletesIn ((init.length + 1) * stageSteps s.vl) s { s with
      st := cascadeOutput s.vl s.st (init ++ [last]), dout := cascadeOutput s.vl s.st (init ++ [last])
      rk0 := (expand s.vl last.2).rk0, rk1 := (expand s.vl last.2).rk1, rk2 := (expand s.vl last.2).rk2
      stage := 0, phase := .idle, done := true, err := .ok } := by
  induction init generalizing s with
  | nil =>
    have hl : ¬ s.stage.val + 1 < s.plan.length := by
      have hlen := plan_length_of_drop hplan
      simp only [List.length_nil] at hlen
      omega
    have run := completesIn_of_lastStage hp (currentStage_of_drop hplan) h7 hl
    rw [afterStage_complete last.1 last.2 h5 h6 h7] at run
    rw [List.length_nil, Nat.zero_add, Nat.one_mul]
    exact run
  | cons d init ih =>
    have hrest : init.map cipherStage ++ [cipherStage last] ≠ [] := by simp
    have first := busyRun_toNextStage hp hplan hrest h7
    have later := ih (s := (s.afterStage d.1 d.2).toNextStage) rfl (toNextStage_plan_drop hplan hrest) h5 h6 h7
    rw [List.length_cons, Nat.add_one_mul, Nat.add_comm]
    exact (first.trans later.busyRun).completes rfl

/-- A cascade from acceptance to completion (R79 to R84). -/
theorem accept_cascade_completesIn {s : State} {op : BitVec 4} {cm : BitVec 2} {v : Variant}
    (init : List (Dir × Word)) (last : Dir × Word) (hplan : plan op cm s.key = init.map cipherStage ++ [cipherStage last])
    (hop : op = 0x3#4 ∨ op = 0x4#4) :
    CompletesIn ((init.length + 1) * stageSteps v) (s.accept op cm v (maskN v s.din)) { s with
      st := cascadeOutput v s.din (init ++ [last]), dout := cascadeOutput v s.din (init ++ [last])
      rk0 := (expand v last.2).rk0, rk1 := (expand v last.2).rk1, rk2 := (expand v last.2).rk2
      opl := op, cml := cm, vl := v, stage := 0, phase := .idle, done := true, err := .ok } := by
  have hblock : op ≠ 0x5#4 ∧ op ≠ 0x6#4 ∧ op ≠ 0x7#4 := by
    rcases hop with rfl | rfl <;> decide
  obtain ⟨h5, h6, h7⟩ := hblock
  rw [← cascadeOutput_maskN v s.din (by simp)]
  exact completesIn_of_stages init last (s := s.accept op cm v (maskN v s.din)) rfl hplan h5 h6 h7

/-! ## The keys a two-key cascade finds too wide (R101) -/

theorem keyTooWide_k32_eq_true {k : Key} (h : k.extractLsb' 32 16 ≠ 0#16) : keyTooWide .k32 k = true := by
  simpa [keyTooWide] using h

theorem keyTooWide_k32_eq_false {k : Key} (h : k.extractLsb' 32 16 = 0#16) : keyTooWide .k32 k = false := by
  simp [keyTooWide, h]

/-! ## The cascades undo one another, and their degenerate keys (R77) -/

section Inverses

variable (v : Variant) (k1 k2 k3 x : Word)

theorem ddecN_dencN : ddecN v k1 k2 (dencN v k1 k2 x) = maskN v x := by
  rw [ddecN, dencN, decN_encN, decN_maskN, decN_encN]

theorem dencN_ddecN : dencN v k1 k2 (ddecN v k1 k2 x) = maskN v x := by
  rw [dencN, ddecN, encN_decN, encN_maskN, encN_decN]

theorem tdec3N_tenc3N : tdec3N v k1 k2 k3 (tenc3N v k1 k2 k3 x) = maskN v x := by
  rw [tdec3N, tenc3N, decN_encN, encN_maskN, encN_decN, decN_maskN, decN_encN]

theorem tenc3N_tdec3N : tenc3N v k1 k2 k3 (tdec3N v k1 k2 k3 x) = maskN v x := by
  rw [tenc3N, tdec3N, encN_decN, decN_maskN, decN_encN, encN_maskN, encN_decN]

/-- The two-key cascades are the three-key ones with K3 = K1. -/
theorem tenc2N_eq_tenc3N : tenc2N v k1 k2 x = tenc3N v k1 k2 k1 x := rfl

theorem tdec2N_eq_tdec3N : tdec2N v k1 k2 x = tdec3N v k1 k2 k1 x := rfl

theorem tdec2N_tenc2N : tdec2N v k1 k2 (tenc2N v k1 k2 x) = maskN v x := by
  rw [tdec2N_eq_tdec3N, tenc2N_eq_tenc3N, tdec3N_tenc3N]

theorem tenc2N_tdec2N : tenc2N v k1 k2 (tdec2N v k1 k2 x) = maskN v x := by
  rw [tdec2N_eq_tdec3N, tenc2N_eq_tenc3N, tenc3N_tdec3N]

/-- With K1 = K2 the second stage undoes the first. -/
theorem tenc3N_same_first_second : tenc3N v k1 k1 k3 x = encN v x k3 := by
  rw [tenc3N, decN_encN, encN_maskN]

/-- With K2 = K3 the third stage undoes the second. -/
theorem tenc3N_same_second_third : tenc3N v k1 k2 k2 x = encN v x k1 := by
  rw [tenc3N, encN_decN, maskN_encN]

theorem tenc2N_same_keys : tenc2N v k1 k1 x = encN v x k1 := by
  rw [tenc2N_eq_tenc3N, tenc3N_same_first_second]

theorem tdec2N_same_keys : tdec2N v k1 k1 x = decN v x k1 := by
  rw [tdec2N, encN_decN, decN_maskN]

end Inverses

end Sys2Proof.Machine

namespace Sys2Proof

open Sys2Proof.Machine

/-- Settles O28: each stage of one cascade undoes the matching stage of the other, by R62. -/
theorem cascadesRoundTrip : Obligations.CascadesRoundTrip := by
  intro v k1 k2 k3 x
  exact ⟨ddecN_dencN v k1 k2 x, dencN_ddecN v k1 k2 x, tdec2N_tenc2N v k1 k2 x, tenc2N_tdec2N v k1 k2 x,
    tdec3N_tenc3N v k1 k2 k3 x, tenc3N_tdec3N v k1 k2 k3 x, tenc2N_same_keys v k1 x,
    tenc3N_same_first_second v k1 k3 x, tenc3N_same_second_third v k1 k2 x⟩

/-- Settles O19: DENC is accepted into the plan E under K1, E under K2, whose run `accept_cascade_completesIn` gives. -/
theorem dencEncryptsTwice : Obligations.DencEncryptsTwice := by
  refine ⟨rfl, rfl, fun _ => rfl, fun v s hidle hkey => ?_, fun v s hidle hkey => ?_, ?_⟩
  · refine ⟨_, _, exec_of_keyFits hidle (keyTooWide_k32_eq_false hkey), rfl, rfl, ?_⟩
    exact accept_cascade_completesIn [(.encrypt, keyMid s.key)] (.encrypt, keyLow s.key) rfl (.inl rfl)
  · exact exec_of_keyTooWide hidle (keyTooWide_k32_eq_true hkey)
  · decide +kernel

/-- Settles O20: DDEC is accepted into the plan D under K2, D under K1; that it undoes DENC is R77. -/
theorem ddecDecryptsTwice : Obligations.DdecDecryptsTwice := by
  refine ⟨rfl, rfl, fun _ => rfl, fun v s hidle hkey => ?_, fun v s hidle hkey => ?_, ddecN_dencN, ?_⟩
  · refine ⟨_, _, exec_of_keyFits hidle (keyTooWide_k32_eq_false hkey), rfl, rfl, ?_⟩
    exact accept_cascade_completesIn [(.decrypt, keyLow s.key)] (.decrypt, keyMid s.key) rfl (.inr rfl)
  · exact exec_of_keyTooWide hidle (keyTooWide_k32_eq_true hkey)
  · decide +kernel

/-- Settles O21: TENC2 is accepted into the plan E under K1, D under K2, E under K1. -/
theorem tencTwoKeyEncryptsDecryptsEncrypts : Obligations.TencTwoKeyEncryptsDecryptsEncrypts := by
  refine ⟨rfl, rfl, fun _ => rfl, fun v s hidle hkey => ?_, fun v s hidle hkey => ?_, tenc2N_same_keys, ?_⟩
  · refine ⟨_, _, exec_of_keyFits hidle (keyTooWide_k32_eq_false hkey), rfl, rfl, ?_⟩
    exact accept_cascade_completesIn [(.encrypt, keyMid s.key), (.decrypt, keyLow s.key)] (.encrypt, keyMid s.key) rfl (.inl rfl)
  · exact exec_of_keyTooWide hidle (keyTooWide_k32_eq_true hkey)
  · decide +kernel

/-- Settles O22: TDEC2 is accepted into the plan D under K1, E under K2, D under K1. -/
theorem tdecTwoKeyDecryptsEncryptsDecrypts : Obligations.TdecTwoKeyDecryptsEncryptsDecrypts := by
  refine ⟨rfl, rfl, fun _ => rfl, fun v s hidle hkey => ?_, fun v s hidle hkey => ?_, tdec2N_same_keys, ?_⟩
  · refine ⟨_, _, exec_of_keyFits hidle (keyTooWide_k32_eq_false hkey), rfl, rfl, ?_⟩
    exact accept_cascade_completesIn [(.decrypt, keyMid s.key), (.encrypt, keyLow s.key)] (.decrypt, keyMid s.key) rfl (.inr rfl)
  · exact exec_of_keyTooWide hidle (keyTooWide_k32_eq_true hkey)
  · decide +kernel

/-- Settles O23: no KEY is too wide for TENC3, and its plan is E under K1, D under K2, E under K3. -/
theorem tencThreeKeyEncryptsDecryptsEncrypts : Obligations.TencThreeKeyEncryptsDecryptsEncrypts := by
  refine ⟨rfl, rfl, fun _ => rfl, fun v s hidle => ?_, tenc3N_same_first_second .v16 _ _, ?_⟩
  · refine ⟨_, _, exec_of_keyFits hidle rfl, rfl, rfl, ?_⟩
    exact accept_cascade_completesIn [(.encrypt, keyHigh s.key), (.decrypt, keyMid s.key)] (.encrypt, keyLow s.key) rfl (.inl rfl)
  · decide +kernel

/-- Settles O24: no KEY is too wide for TDEC3, and its plan is D under K3, E under K2, D under K1; that it undoes TENC3 is R77. -/
theorem tdecThreeKeyDecryptsEncryptsDecrypts : Obligations.TdecThreeKeyDecryptsEncryptsDecrypts := by
  refine ⟨rfl, rfl, fun _ => rfl, fun v s hidle => ?_, tdec3N_tenc3N, ?_⟩
  · refine ⟨_, _, exec_of_keyFits hidle rfl, rfl, rfl, ?_⟩
    exact accept_cascade_completesIn [(.decrypt, keyLow s.key), (.encrypt, keyMid s.key)] (.decrypt, keyHigh s.key) rfl (.inr rfl)
  · decide +kernel

end Sys2Proof
end

section
/-! PROOFS. The CBC commands CBCENC and CBCDEC (rules R85, R87, R88): what each leaves in DOUT and CHAIN at completion. -/

namespace Sys2Proof.Machine

/-! ## From acceptance to completion (R70, R85) -/

/-- CBCENC's one stage, of the block `b`: the result goes to DOUT and to CHAIN (R87). -/
theorem accept_cbcenc_completesIn {s : State} {cm : BitVec 2} {v : Variant} {k : Word} (b : Word)
    (hplan : plan 0x5#4 cm s.key = [⟨some .encrypt, k⟩]) :
    CompletesIn (stageSteps v) (s.accept 0x5#4 cm v (maskN v b)) { s with
      st := encN v b k, dout := encN v b k, chain := encN v b k
      rk0 := (expand v k).rk0, rk1 := (expand v k).rk1, rk2 := (expand v k).rk2
      opl := 0x5#4, cml := cm, vl := v, stage := 0, phase := .idle, done := true, err := .ok } := by
  convert accept_completesIn hplan (by decide) using 1
  rw [State.complete, State.writeResults_of_cbcenc rfl]
  simp [State.afterStage, State.accept, stageOutput]

/-- CBCDEC's one stage, of DIN: DOUT takes the result xored with the old CHAIN, CHAIN takes DIN (R88). -/
theorem accept_cbcdec_completesIn {s : State} {cm : BitVec 2} {v : Variant} {k : Word}
    (hplan : plan 0x6#4 cm s.key = [⟨some .decrypt, k⟩]) :
    CompletesIn (stageSteps v) (s.accept 0x6#4 cm v (maskN v s.din)) { s with
      st := decN v s.din k, dout := decN v s.din k ^^^ maskN v s.chain, chain := maskN v s.din
      rk0 := (expand v k).rk0, rk1 := (expand v k).rk1, rk2 := (expand v k).rk2
      opl := 0x6#4, cml := cm, vl := v, stage := 0, phase := .idle, done := true, err := .ok } := by
  convert accept_completesIn hplan (by decide) using 1
  rw [State.complete, State.writeResults_of_cbcdec rfl]
  simp [State.afterStage, State.accept, stageOutput, maskN_xor]

/-! ## A zero CHAIN (R87, R88) -/

@[simp] theorem maskN_zero (v : Variant) : maskN v 0x0000#16 = 0x0000#16 := by cases v <;> rfl

end Sys2Proof.Machine

namespace Sys2Proof

open Sys2Proof.Machine

/-- Settles O25: CBCENC is accepted into a plan of one E stage, whose run `accept_cbcenc_completesIn` gives. -/
theorem cbcencEncryptsAndChains : Obligations.CbcencEncryptsAndChains := by
  have hplan (k : Key) : plan 0x5#4 0b00#2 k = [⟨some .encrypt, keyLow k⟩] := rfl
  refine ⟨rfl, rfl, hplan, fun v s hidle hkey => ?_, fun w s hidle hop hbad => ?_, fun v s hidle hkey => ?_,
    fun v s hbusy => ?_, fun b c k => ⟨?_, ?_⟩, fun v b k => ?_, ?_⟩
  · refine ⟨_, _, exec_of_keyFits hidle (keyTooWide_k16_eq_false hkey), rfl, rfl, ?_⟩
    exact accept_cbcenc_completesIn (s.din ^^^ s.chain) (hplan s.key)
  · exact commandWrite_of_malformed hidle hop (by decide) hbad
  · exact exec_of_keyTooWide hidle (keyTooWide_k16_eq_true hkey)
  · exact exec_of_busy hbusy
  · rw [← and_00FF_xor, encN_v8_and_00FF]
  · exact zext16_highByte _
  · rw [BitVec.xor_zero]
  · decide

/-- Settles O26: CBCDEC is accepted into a plan of one D stage, whose run `accept_cbcdec_completesIn` gives. -/
theorem cbcdecDecryptsAndChains : Obligations.CbcdecDecryptsAndChains := by
  have hplan (k : Key) : plan 0x6#4 0b00#2 k = [⟨some .decrypt, keyLow k⟩] := rfl
  refine ⟨rfl, rfl, hplan, fun v s hidle hkey => ?_, fun w s hidle hop hbad => ?_, fun v s hidle hkey => ?_,
    fun v s hbusy => ?_, fun v c k => ?_, ?_⟩
  · exact ⟨_, exec_of_keyFits hidle (keyTooWide_k16_eq_false hkey), rfl, accept_cbcdec_completesIn (hplan s.key)⟩
  · exact commandWrite_of_malformed hidle hop (by decide) hbad
  · exact exec_of_keyTooWide hidle (keyTooWide_k16_eq_true hkey)
  · exact exec_of_busy hbusy
  · rw [maskN_zero, BitVec.xor_zero]
  · decide

end Sys2Proof
end

section
/-! PROOFS. Cipher block chaining as functions on sequences of blocks (rules R89 to R91): decryption undoes encryption, and how far a changed
ciphertext block reaches. -/

namespace Sys2Proof.Machine

section Chaining

variable (v : Variant) (k iv : Word)

/-! ## The recursion, block by block (R89) -/

@[simp] theorem cbcEncrypt_nil : cbcEncrypt v k iv [] = [] := rfl

theorem cbcEncrypt_cons (b : Word) (bs : List Word) :
    cbcEncrypt v k iv (b :: bs) = encN v (b ^^^ iv) k :: cbcEncrypt v k (encN v (b ^^^ iv) k) bs := rfl

@[simp] theorem cbcDecrypt_nil : cbcDecrypt v k iv [] = [] := rfl

theorem cbcDecrypt_cons (c : Word) (cs : List Word) :
    cbcDecrypt v k iv (c :: cs) = maskN v (decN v c k ^^^ iv) :: cbcDecrypt v k (maskN v c) cs := rfl

@[simp] theorem length_cbcDecrypt (cs : List Word) : (cbcDecrypt v k iv cs).length = cs.length := by
  induction cs generalizing iv with
  | nil => rfl
  | cons c cs ih => rw [cbcDecrypt_cons, List.length_cons, List.length_cons, ih]

/-- The chain value the block after `cs` meets: the last block of `cs`, masked, or `iv` where there is none. -/
def chainAfter (cs : List Word) : Word := cs.foldl (fun _ c => maskN v c) iv

theorem chainAfter_cons (c : Word) (cs : List Word) : chainAfter v iv (c :: cs) = chainAfter v (maskN v c) cs := rfl

theorem cbcDecrypt_append (cs ds : List Word) :
    cbcDecrypt v k iv (cs ++ ds) = cbcDecrypt v k iv cs ++ cbcDecrypt v k (chainAfter v iv cs) ds := by
  induction cs generalizing iv with
  | nil => rfl
  | cons c cs ih => rw [List.cons_append, cbcDecrypt_cons, cbcDecrypt_cons, ih, chainAfter_cons, List.cons_append]

/-- A sequence cut at one of its blocks. -/
theorem cbcDecrypt_append_cons (cs ds : List Word) (c : Word) :
    cbcDecrypt v k iv (cs ++ c :: ds) =
      cbcDecrypt v k iv cs ++ maskN v (decN v c k ^^^ chainAfter v iv cs) :: cbcDecrypt v k (maskN v c) ds := by
  rw [cbcDecrypt_append, cbcDecrypt_cons]

/-! ## Decryption undoes encryption (R90) -/

/-- One block: the cipher is undone by R62, the chain value cancels. -/
theorem maskN_decN_encN_xor (b : Word) : maskN v (decN v (encN v (b ^^^ iv) k) k ^^^ iv) = maskN v b := by
  rw [decN_encN, maskN_xor, maskN_maskN, ← maskN_xor, BitVec.xor_assoc, BitVec.xor_self, BitVec.xor_zero]

/-- On any words: in V8 the high bytes are lost. -/
theorem cbcDecrypt_cbcEncrypt (bs : List Word) : cbcDecrypt v k iv (cbcEncrypt v k iv bs) = bs.map (maskN v) := by
  induction bs generalizing iv with
  | nil => rfl
  | cons b bs ih =>
    rw [cbcEncrypt_cons, cbcDecrypt_cons, maskN_decN_encN_xor, maskN_encN, ih, List.map_cons]

/-! ## A changed ciphertext block (R91) -/

/-- A changed block decrypts to another one: Dec_N is injective on N-bit blocks (R62). -/
theorem decN_xor_ne {e : Word} (c : Word) (he : maskN v e ≠ 0x0000#16) : decN v (c ^^^ e) k ≠ decN v c k := by
  intro heq
  have hmask : maskN v (c ^^^ e) = maskN v c := by rw [← encN_decN v (c ^^^ e) k, heq, encN_decN]
  rw [maskN_xor] at hmask
  exact he (xor_left_eq_self_iff.1 hmask)

/-- The changed block's own plaintext changes. -/
theorem maskN_decN_xor_ne {e : Word} (c prev : Word) (he : maskN v e ≠ 0x0000#16) :
    maskN v (decN v (c ^^^ e) k ^^^ prev) ≠ maskN v (decN v c k ^^^ prev) := by
  simpa [maskN_xor] using decN_xor_ne v k c he

/-- A change of the chain value flips the same bits of the next plaintext block and reaches no further. -/
theorem cbcDecrypt_xor_iv (e c : Word) (cs : List Word) :
    cbcDecrypt v k (iv ^^^ e) (c :: cs) =
      (maskN v (decN v c k ^^^ iv) ^^^ maskN v e) :: cbcDecrypt v k (maskN v c) cs := by
  rw [cbcDecrypt_cons, ← BitVec.xor_assoc, maskN_xor v _ e]

end Chaining

end Sys2Proof.Machine

namespace Sys2Proof

open Sys2Proof.Machine

/-- Settles O33: what decryption recovers is each block masked to N bits (`cbcDecrypt_cbcEncrypt`). -/
theorem cbcRoundTrips : Obligations.CbcRoundTrips := by
  intro v k iv bs hbs
  rw [cbcDecrypt_cbcEncrypt]
  exact (List.map_congr_left hbs).trans bs.map_id

/-- Settles O34: the sequence is cut at the changed block, which the next block meets as its chain value. -/
theorem cbcTamperingPropagatesOnce : Obligations.CbcTamperingPropagatesOnce := by
  intro v k iv e c before after he hne
  refine ⟨maskN v (decN v c k ^^^ chainAfter v iv before), _, chainAfter v iv before, cbcDecrypt v k iv before,
    cbcDecrypt v k (maskN v c) after, length_cbcDecrypt v k iv before, rfl, cbcDecrypt_append_cons v k iv before after c, rfl,
    maskN_decN_xor_ne v k c _ (by rwa [he]), ?_, ?_⟩
  · rintro rfl
    rw [cbcDecrypt_append_cons, cbcDecrypt_nil]
  · intro p' rest hnext
    cases after with
    | nil => cases hnext
    | cons d ds =>
      obtain ⟨rfl, rfl⟩ := List.cons.inj hnext
      rw [cbcDecrypt_append_cons, maskN_xor v c e, he, cbcDecrypt_xor_iv, he]

end Sys2Proof
end

section
/-! PROOFS. Host writes (rules R94, R95, R104): what a write does to each register, and the addresses where it does nothing. -/

namespace Sys2Proof.Machine

variable (s : State) (v : Word)

/-! ## Each register a write can reach (R94) -/

theorem occur_write_cmd : occur (.write Reg.cmd.addr v) s = commandWrite v s := rfl

theorem occur_write_status : occur (.write Reg.status.addr v) s = .next (s.statusWrite v) := rfl

theorem occur_write_din : occur (.write Reg.din.addr v) s = .next (s.whenIdle { s with din := v }) := rfl

theorem occur_write_key0 :
    occur (.write Reg.key0.addr v) s = .next (s.whenIdle { s with key := setKey0 s.key v }) := rfl

theorem occur_write_key1 :
    occur (.write Reg.key1.addr v) s = .next (s.whenIdle { s with key := setKey1 s.key v }) := rfl

theorem occur_write_key2 :
    occur (.write Reg.key2.addr v) s = .next (s.whenIdle { s with key := setKey2 s.key v }) := rfl

theorem occur_write_chain : occur (.write Reg.chain.addr v) s = .next (s.whenIdle { s with chain := v }) := rfl

/-! ## Dropped and ignored writes (R94, R104) -/

theorem occur_write_dropped {s : State} {a : Addr} (hbusy : s.phase ≠ .idle) (ha : a ∈ droppedAddrs) :
    occur (.write a v) s = .next s.dropWrite := by
  simp only [droppedAddrs, List.mem_cons, List.not_mem_nil, or_false] at ha
  rcases ha with rfl | rfl | rfl | rfl | rfl | rfl
  · rw [occur_write_cmd, commandWrite_of_busy hbusy]
  · rw [occur_write_din, s.whenIdle_of_busy hbusy]
  · rw [occur_write_key0, s.whenIdle_of_busy hbusy]
  · rw [occur_write_key1, s.whenIdle_of_busy hbusy]
  · rw [occur_write_key2, s.whenIdle_of_busy hbusy]
  · rw [occur_write_chain, s.whenIdle_of_busy hbusy]

/-- "Writes to read-only and reserved addresses are ignored" (R94): DOUT, and from RK0 on. -/
theorem occur_write_ignored {a : Addr} (ha : a = Reg.dout.addr ∨ 8 ≤ a.toNat) : occur (.write a v) s = .next s := by
  rcases ha with rfl | ha
  · rfl
  · change s.hostWrite commandWrite a v = .next s
    cases hreg : Reg.ofAddr a with
    | none => simp only [State.hostWrite, hreg]
    | some r =>
      obtain rfl := Reg.addr_of_ofAddr a r hreg
      cases r with
      | rk0 | rk1 | rk2 => rfl
      | cmd | status | din | dout | key0 | key1 | key2 | chain => exact absurd ha (by decide)

/-! ## The status write (R95) -/

theorem State.statusWrite_eq : s.statusWrite v = { s with
    done := if v.getLsbD 1 then false else s.done
    err := if v.getLsbD 1 then .ok else s.err
    wovr := if v.getLsbD 4 then false else s.wovr } := by
  unfold State.statusWrite
  cases v.getLsbD 1 <;> cases v.getLsbD 4 <;> rfl

end Sys2Proof.Machine

namespace Sys2Proof

open Sys2Proof.Machine

/-- Settles O9: while busy the write is dropped; while idle the guard lets it through to its register. -/
theorem hostWriteStoresIgnoresOrDrops : Obligations.HostWriteStoresIgnoresOrDrops := by
  intro s v
  refine ⟨fun hbusy a ha => occur_write_dropped v hbusy ha, fun _ => occur_write_cmd s v, occur_write_status s v,
    fun hidle => ?_, fun hidle => ?_, fun hidle => ?_, fun hidle => ?_, fun hidle => ?_,
    fun a ha => occur_write_ignored s v ha⟩
  · exact (occur_write_din s v).trans (by rw [s.whenIdle_of_idle hidle])
  · exact (occur_write_key0 s v).trans (by rw [s.whenIdle_of_idle hidle]; rfl)
  · exact (occur_write_key1 s v).trans (by rw [s.whenIdle_of_idle hidle]; rfl)
  · exact (occur_write_key2 s v).trans (by rw [s.whenIdle_of_idle hidle]; rfl)
  · exact (occur_write_chain s v).trans (by rw [s.whenIdle_of_idle hidle])

/-- Settles O10: bits 1 and 4 of the word written decide the three fields (`State.statusWrite_eq`). -/
theorem statusWriteClearsTheBitsWrittenAsOne : Obligations.StatusWriteClearsTheBitsWrittenAsOne := by
  intro s v
  rw [← s.statusWrite_eq v]
  exact occur_write_status s v

end Sys2Proof
end

section
/-! PROOFS. Dispatch (rule R96): a legal word names its command by its fields, and what ST takes at acceptance is read off them. -/

namespace Sys2Proof.Machine

/-! ## The command of a legal word (R34, R38) -/

theorem exists_command_of_legal {w : Word} (h : wordIllegal w = false) :
    ∃ i, decode w = .ok i ∧ fieldOp w = opOf i ∧ fieldCm w = cmOf i ∧ fieldV w = i.variant := by
  obtain ⟨i, hi⟩ := (decode_ok_iff_legal w).2 h
  obtain rfl := eq_encode_of_decode hi
  exact ⟨i, hi, fields_encode i⟩

theorem commandWrite_of_decode {w : Word} {i : Instr} (s : State) (h : decode w = .ok i) : commandWrite w s = exec i s := by
  simp only [commandWrite, h]

/-! ## What ST takes at acceptance (R96) -/

theorem blockOf_eq_ite_opOf (i : Instr) (s : State) :
    blockOf i s = if opOf i = 0x7#4 then s.st
      else if opOf i = 0x5#4 then maskN i.variant (s.din ^^^ s.chain)
      else maskN i.variant s.din := by
  cases i <;> rfl

theorem maskN_fieldV (w x : Word) : maskN (fieldV w) x = if w.getLsbD 6 then x &&& 0x00FF#16 else x := by
  unfold fieldV
  split
  · exact zext16_lowByte x
  · rfl

end Sys2Proof.Machine

namespace Sys2Proof

open Sys2Proof.Machine

/-- Settles O13: a legal word runs its command, whose key check and block are those of the word's fields. -/
theorem dispatchRejectsOrAccepts : Obligations.DispatchRejectsOrAccepts := by
  intro w s hidle
  refine ⟨fun hw => commandWrite_of_illegal hidle hw, fun hw hwide => ?_, fun hw hfits => ?_⟩
  all_goals obtain ⟨i, hi, hop, hcm, hv⟩ := exists_command_of_legal hw
  · rw [hop, hcm, ← keyTooWide_bitsOf] at hwide
    exact (commandWrite_of_decode s hi).trans (exec_of_keyTooWide hidle hwide)
  · rw [hop, hcm, ← keyTooWide_bitsOf, Bool.not_eq_true] at hfits
    simp only [← maskN_fieldV]
    rw [commandWrite_of_decode s hi, exec_of_keyFits hidle hfits, blockOf_eq_ite_opOf, ← hop, ← hcm, ← hv]
    rfl

end Sys2Proof
end

section
/-! PROOFS. Rejections (rules R101 to R103): the key bits of each command, and what a CMD write that leaves the block idle has done. -/

namespace Sys2Proof.Machine

/-! ## The key bits of each command (R101) -/

theorem bitsOf_eq_k16 (v : Variant) :
    ∀ i ∈ [Instr.enc v, .dec v, .cbcenc v, .cbcdec v, .kexp v], bitsOf i = .k16 := by
  simp [bitsOf]

theorem bitsOf_eq_k32 (v : Variant) : ∀ i ∈ [Instr.denc v, .ddec v, .tenc2 v, .tdec2 v], bitsOf i = .k32 := by
  simp [bitsOf]

theorem bitsOf_eq_k48 (v : Variant) : ∀ i ∈ [Instr.tenc3 v, .tdec3 v], bitsOf i = .k48 := by
  simp [bitsOf]

theorem keyTooWide_k48 (k : Key) : keyTooWide .k48 k = false := rfl

section KeyCheck

variable {i : Instr} {s : State} {b : KeyBits}

theorem exec_rejects_of_bitsOf (hidle : s.phase = .idle) (hbits : bitsOf i = b) (hkey : keyTooWide b s.key = true) :
    exec i s = .next (s.reject .keyWidth) := by
  subst hbits
  exact exec_of_keyTooWide hidle hkey

theorem exec_starts_of_bitsOf (hidle : s.phase = .idle) (hbits : bitsOf i = b) (hkey : keyTooWide b s.key = false) :
    ∃ t, exec i s = .next t ∧ t.phase = .start := by
  subst hbits
  exact ⟨_, exec_of_keyFits hidle hkey, rfl⟩

end KeyCheck

/-! ## A CMD write that leaves an idle block idle (R102, R103) -/

/-- It is a rejection: ILLEGAL for an illegal word, KEYWIDTH for a legal one. -/
theorem commandWrite_rejection {w : Word} {s t : State} (hidle : s.phase = .idle) (h : commandWrite w s = .next t)
    (ht : t.phase = .idle) :
    (wordIllegal w = true ∧ t = s.reject .illegal) ∨ (wordIllegal w = false ∧ t = s.reject .keyWidth) := by
  rcases commandWrite_cases w s with ⟨hbusy, _⟩ | ⟨_, herror, e⟩ | ⟨_, i, hi, ⟨_, e⟩ | ⟨_, e⟩⟩
  · exact absurd hidle hbusy
  · rw [e] at h
    cases h
    exact .inl ⟨(decode_error_iff_wordIllegal w).1 herror, rfl⟩
  · rw [e] at h
    cases h
    exact .inr ⟨(decode_ok_iff_legal w).1 ⟨i, hi⟩, rfl⟩
  · rw [e] at h
    cases h
    cases ht

end Sys2Proof.Machine

namespace Sys2Proof

open Sys2Proof.Machine

/-- Settles O14: the command's group fixes its key bits, and KEY is too wide for them exactly under the group's condition. -/
theorem keyWidthCheckOfEachCommand : Obligations.KeyWidthCheckOfEachCommand := by
  intro v s hidle
  refine ⟨fun i hi => ⟨fun hwide => ?_, fun hfits => ?_⟩, fun i hi => ⟨fun hwide => ?_, fun hfits => ?_⟩, fun i hi => ?_⟩
  · exact exec_rejects_of_bitsOf hidle (bitsOf_eq_k16 v i hi) (keyTooWide_k16_eq_true hwide)
  · exact exec_starts_of_bitsOf hidle (bitsOf_eq_k16 v i hi) (keyTooWide_k16_eq_false hfits)
  · exact exec_rejects_of_bitsOf hidle (bitsOf_eq_k32 v i hi) (keyTooWide_k32_eq_true hwide)
  · exact exec_starts_of_bitsOf hidle (bitsOf_eq_k32 v i hi) (keyTooWide_k32_eq_false hfits)
  · exact exec_starts_of_bitsOf hidle (bitsOf_eq_k48 v i hi) (keyTooWide_k48 s.key)

/-- Settles O15: both rejections of `commandWrite_rejection` write DONE and ERR alone. -/
theorem rejectionIsPrecise : Obligations.RejectionIsPrecise := by
  intro w s t hidle h ht
  rcases commandWrite_rejection hidle h ht with ⟨hw, rfl⟩ | ⟨hw, rfl⟩
  · exact ⟨rfl, by simp, rfl, fun _ => rfl, fun hlegal => by simp [hw] at hlegal⟩
  · exact ⟨rfl, by simp, rfl, fun hillegal => by simp [hw] at hillegal, fun _ => rfl⟩

end Sys2Proof
end

section
/-! PROOFS. A busy block (rule R104): which events change WOVR, and the operands that stay fixed until completion. -/

namespace Sys2Proof.Machine

theorem State.statusWrite_wovr (s : State) (v : Word) :
    (s.statusWrite v).wovr = if v.getLsbD 4 then false else s.wovr := by
  rw [s.statusWrite_eq v]

variable {e : Event} {s t : State}

/-- WOVR changes only by a dropped write, a status write with bit 4, or reset. -/
theorem Occurs.wovr_change (h : Occurs e s t) (hne : t.wovr ≠ s.wovr) :
    (t.wovr = true ∧ s.phase ≠ .idle ∧ ∃ a ∈ droppedAddrs, ∃ v, e = .write a v) ∨
    (t.wovr = false ∧ (e = .reset ∨ ∃ v : Word, e = .write Reg.status.addr v ∧ v.getLsbD 4 = true)) := by
  cases h with
  | dropped a v _ ha hbusy => exact .inl ⟨rfl, hbusy, a, ha, v, rfl⟩
  | reset => exact .inr ⟨rfl, .inl rfl⟩
  | status v =>
    by_cases hbit : v.getLsbD 4 = true
    · exact .inr ⟨by rw [s.statusWrite_wovr, if_pos hbit], .inr ⟨v, rfl, hbit⟩⟩
    · exact absurd (by rw [s.statusWrite_wovr, if_neg hbit]) hne
  | sequencer _ _ hseq =>
    obtain ⟨hwovr, _⟩ := sequencerStep_frame hseq
    exact absurd hwovr hne
  | read | pollBusy | pollIdle | illegal | keyWidth | accepted | din | key | chain | ignored => exact absurd rfl hne

/-- "Every operand of a command stays fixed from acceptance to completion" (R104). -/
theorem Occurs.operands_fixed (h : Occurs e s t) (hbusy : s.phase ≠ .idle) (hreset : e ≠ .reset) :
    t.din = s.din ∧ t.key = s.key ∧ (t.phase ≠ .idle → t.chain = s.chain ∧ t.opl = s.opl ∧ t.cml = s.cml ∧ t.vl = s.vl) := by
  cases h with
  | reset => exact absurd rfl hreset
  | sequencer _ _ hseq =>
    obtain ⟨_, hdin, hkey, hopl, hcml, hvl, _, _, hunlessDone⟩ := sequencerStep_frame hseq
    refine ⟨hdin, hkey, fun ht => ?_⟩
    obtain ⟨hchain, _⟩ := hunlessDone ht
    exact ⟨hchain, hopl, hcml, hvl⟩
  | status v =>
    rw [s.statusWrite_eq v]
    exact ⟨rfl, rfl, fun _ => ⟨rfl, rfl, rfl, rfl⟩⟩
  | read | pollBusy | dropped | ignored => exact ⟨rfl, rfl, fun _ => ⟨rfl, rfl, rfl, rfl⟩⟩
  | pollIdle _ hidle | illegal _ _ _ hidle | keyWidth _ _ _ hidle | accepted _ _ _ hidle | din _ _ hidle
  | key _ _ _ _ hidle | chain _ _ hidle => exact absurd hidle hbusy

end Sys2Proof.Machine

namespace Sys2Proof

open Sys2Proof.Machine

/-- Settles O12: the outcomes of an event (`Occurs`) leave WOVR and the operands as the rule says. -/
theorem busyWritesAreDropped : Obligations.BusyWritesAreDropped := by
  refine ⟨fun s v hbusy a ha => occur_write_dropped v hbusy ha, fun e s t h hne => ?_, fun e s t h hbusy hreset => ?_⟩
  · exact (occurs_of_occur h).wovr_change hne
  · exact (occurs_of_occur h).operands_fixed hbusy hreset

end Sys2Proof
end

section
/-! PROOFS. The time of a command (rule R119): every accepted command completes in its number of sequencer steps. -/

namespace Sys2Proof.Machine

/-! ## Plans of two and of three stages (R75) -/

section Cascades

variable {s : State} {op : BitVec 4} {cm : BitVec 2} {v : Variant} {d1 d2 d3 : Dir} {k1 k2 k3 : Word}

theorem accept_twoStages_completes (hplan : plan op cm s.key = [⟨some d1, k1⟩, ⟨some d2, k2⟩])
    (hop : op = 0x3#4 ∨ op = 0x4#4) :
    ∃ u, CompletesIn (2 * stageSteps v) (s.accept op cm v (maskN v s.din)) u ∧ u.done = true ∧ u.err = .ok :=
  ⟨_, accept_cascade_completesIn [(d1, k1)] (d2, k2) hplan hop, rfl, rfl⟩

theorem accept_threeStages_completes (hplan : plan op cm s.key = [⟨some d1, k1⟩, ⟨some d2, k2⟩, ⟨some d3, k3⟩])
    (hop : op = 0x3#4 ∨ op = 0x4#4) :
    ∃ u, CompletesIn (3 * stageSteps v) (s.accept op cm v (maskN v s.din)) u ∧ u.done = true ∧ u.err = .ok :=
  ⟨_, accept_cascade_completesIn [(d1, k1), (d2, k2)] (d3, k3) hplan hop, rfl, rfl⟩

end Cascades

/-! ## Every command -/

/-- From acceptance on, by the command's plan: one stage of rounds, two or three of them, or KEXP's stage without rounds. -/
theorem accept_completesIn_stepCount (i : Instr) (s : State) :
    ∃ u, CompletesIn (stepCount i) (s.accept (opOf i) (cmOf i) i.variant (blockOf i s)) u ∧ u.done = true ∧ u.err = .ok := by
  cases i with
  | enc | dec | cbcenc | cbcdec => exact ⟨_, accept_completesIn rfl (by simp [opOf]), rfl, rfl⟩
  | denc => exact accept_twoStages_completes rfl (.inl rfl)
  | ddec => exact accept_twoStages_completes rfl (.inr rfl)
  | tenc2 | tenc3 => exact accept_threeStages_completes rfl (.inl rfl)
  | tdec2 | tdec3 => exact accept_threeStages_completes rfl (.inr rfl)
  | kexp => exact ⟨_, accept_kexp_completesIn rfl, rfl, rfl⟩

variable {i : Instr} {s t : State}

/-- A command that leaves an idle block busy has been accepted (R96, R102). -/
theorem eq_accept_of_exec (hidle : s.phase = .idle) (h : exec i s = .next t) (hbusy : t.phase ≠ .idle) :
    t = s.accept (opOf i) (cmOf i) i.variant (blockOf i s) := by
  rcases exec_cases i s with ⟨hs, _⟩ | ⟨_, _, e⟩ | ⟨_, _, e⟩
  · exact absurd hidle hs
  · rw [e] at h
    cases h
    exact absurd hidle hbusy
  · rw [e] at h
    cases h
    rfl

/-- Only acceptance moves the phase: from IDLE to START (R96, R102, R104). -/
theorem exec_phase (i : Instr) (s : State) :
    ∃ t, exec i s = .next t ∧ (t.phase ≠ s.phase → s.phase = .idle ∧ t.phase = .start) := by
  rcases exec_cases i s with ⟨_, e⟩ | ⟨_, _, e⟩ | ⟨hidle, _, e⟩
  · exact ⟨_, e, fun hmoved => absurd rfl hmoved⟩
  · exact ⟨_, e, fun hmoved => absurd rfl hmoved⟩
  · exact ⟨_, e, fun _ => ⟨hidle, rfl⟩⟩

end Sys2Proof.Machine

namespace Sys2Proof

open Sys2Proof.Machine

/-- Settles O39: a command that leaves an idle block busy has been accepted, and its plan's stages take `stepCount` steps. -/
theorem acceptedCommandsCompleteOnTime : Obligations.AcceptedCommandsCompleteOnTime := by
  refine ⟨fun i s t hidle h hbusy => ?_, exec_phase, fun v => ?_, fun v => ?_, fun v => ?_, fun _ => rfl⟩
  · rw [eq_accept_of_exec hidle h hbusy]
    exact accept_completesIn_stepCount i s
  all_goals cases v <;> decide

end Sys2Proof
end

section
/-! PROOFS. The decoder and the encoder are inverse (rules R34 to R40), and the mask that selects a row of the command table (rule R38). -/

namespace Sys2Proof

open Sys2Proof.Machine

/-! ## Round trip -/

theorem decode_encode (i : Instr) : decode (encode i) = .ok i := by
  cases i with
  | enc v | dec v | denc v | ddec v | tenc2 v | tdec2 v | tenc3 v | tdec3 v | cbcenc v | cbcdec v | kexp v =>
    cases v <;> rfl

theorem decode_eq_ok_iff (w : Word) (i : Instr) : decode w = .ok i ↔ w = encode i := by
  refine ⟨eq_encode_of_decode, ?_⟩
  rintro rfl
  exact decode_encode i

/-- Settles O5: `decode_encode` for the commands, `eq_encode_of_decode` for the words. -/
theorem decodeAndEncodeAreInverse : Obligations.DecodeAndEncodeAreInverse :=
  ⟨decode_encode, fun _ _ => eq_encode_of_decode⟩

/-! ## Bit 6 and the other fifteen -/

theorem eq_iff_masked_eq {w x : Word} (hbit : w.getLsbD 6 = x.getLsbD 6) : w = x ↔ w &&& 0xFFBF#16 = x &&& 0xFFBF#16 := by
  refine ⟨fun h => by rw [h], fun h => ?_⟩
  apply BitVec.eq_of_getLsbD_eq
  intro i hi
  by_cases h6 : i = 6
  · rwa [h6]
  · have hmask : ∀ j < 16, j ≠ 6 → (0xFFBF#16).getLsbD j = true := by decide
    simpa [hmask i hi h6] using congrArg (·.getLsbD i) h

theorem getLsbD_encode (i : Instr) : (encode i).getLsbD 6 = true ↔ i.variant = .v8 := by
  cases i with
  | enc v | dec v | denc v | ddec v | tenc2 v | tdec2 v | tenc3 v | tdec3 v | cbcenc v | cbcdec v | kexp v =>
    cases v <;> decide

/-- A row's match, and the variant bit 6 names, single out one command. -/
theorem decode_eq_ok_iff_masked {w m : Word} {v : Variant} {i : Instr} (hv : w.getLsbD 6 = true ↔ v = .v8) (hi : i.variant = v)
    (hm : encode i &&& 0xFFBF#16 = m) : decode w = .ok i ↔ w &&& 0xFFBF#16 = m := by
  subst hi hm
  rw [decode_eq_ok_iff]
  exact eq_iff_masked_eq (Bool.eq_iff_iff.2 (hv.trans (getLsbD_encode i).symm))

/-- Settles O7: a word is a command's exactly where bit 6 and the masked bits agree. -/
theorem maskedWordSelectsTheRow : Obligations.MaskedWordSelectsTheRow := by
  intro w v hv
  refine ⟨?_, ?_, ?_, ?_, ?_, ?_, ?_, ?_, ?_, ?_, ?_⟩
  all_goals exact decode_eq_ok_iff_masked hv rfl (by cases v <;> rfl)

/-- Settles O4: twelve words, decoded. -/
theorem tableWordsDecodeToTheirRows : Obligations.TableWordsDecodeToTheirRows := by
  unfold Obligations.TableWordsDecodeToTheirRows
  decide

end Sys2Proof
end

section
/-! PROOFS. The invariant of the control state (rules R16 to R18, R21, R65, R101): reset meets it, every event keeps it, and what follows
of a busy block. -/

namespace Sys2Proof.Machine

/-! ## Plans (R66, R75, R85) -/

/-- Only KEXP's stage has no direction. -/
theorem dir_of_mem_plan {op : BitVec 4} {cm : BitVec 2} {k : Key} {stg : Stage} (h : stg ∈ plan op cm k) (h7 : op ≠ 0x7#4) :
    ∃ dir, stg.dir = some dir := by
  unfold plan at h
  split at h
  case h_11 hop _ => exact absurd (BitVec.eq_of_toNat_eq hop) h7
  case h_12 => exact absurd h List.not_mem_nil
  all_goals
    simp only [List.mem_cons, List.not_mem_nil, or_false] at h
    rcases h with rfl | rfl | rfl <;> exact ⟨_, rfl⟩

theorem currentStage_dir {s : State} {stg : Stage} (hs : s.currentStage = some stg) (h7 : s.opl ≠ 0x7#4) :
    ∃ dir, s.currentStage = some ⟨some dir, stg.subkey⟩ := by
  obtain ⟨dir, hdir⟩ := dir_of_mem_plan (List.mem_of_getElem? hs) h7
  exact ⟨dir, by rw [hs, ← hdir]⟩

/-- A command's plan has a first stage. -/
theorem accept_planned (i : Instr) (s : State) (b : Word) :
    ∃ stg, (s.accept (opOf i) (cmOf i) i.variant b).currentStage = some stg := by
  cases i <;> exact ⟨_, rfl⟩

/-! ## ST in V8 (R17) -/

theorem maskN_v8_of_mem_seq {r : RoundStep} {dir : Dir} {s : State} (hv : s.vl = .v8) (hr : r ∈ seq dir .v8) :
    maskN .v8 (r.apply s) = r.apply s := by
  have hblock (f16 : Word → Word) (f8 : Byte → Byte) (x : Word) : maskN .v8 (onBlock .v8 f16 f8 x) = onBlock .v8 f16 f8 x := by
    simp [maskN, onBlock]
  cases r with
  | mix | imix => cases dir <;> simp [seq] at hr
  | km0 | km1 | km2 | sub | isub | perm | iperm =>
    simp only [RoundStep.apply, hv]
    exact hblock _ _ _

theorem maskN_blockOf {i : Instr} {s : State} (h7 : opOf i ≠ 0x7#4) : maskN i.variant (blockOf i s) = blockOf i s := by
  cases i with
  | kexp => exact absurd rfl h7
  | enc | dec | denc | ddec | tenc2 | tdec2 | tenc3 | tdec3 | cbcenc | cbcdec => exact maskN_maskN _ _

/-! ## Every sequencer step keeps the invariant -/

/-- A step that leaves the block busy changes no operand and no flag: what is left to show is about the stage, the phase, ST and RK0-RK2. -/
theorem ControlInv.of_busy_step {s t : State} (inv : ControlInv s) (h : sequencerStep s = .next t) (hs : s.phase ≠ .idle)
    (ht : t.phase ≠ .idle) (planned : ∃ stg, t.currentStage = some stg)
    (roundInSeq : ∀ i, t.phase = .run i → ∃ dir k, t.currentStage = some ⟨some dir, k⟩ ∧ i.val < (seq dir t.vl).length)
    (narrowSt : t.vl = .v8 → t.opl ≠ 0x7#4 → maskN .v8 t.st = t.st)
    (schedule : t.phase ≠ .start → ∀ stg, t.currentStage = some stg →
      (⟨t.rk0, t.rk1, t.rk2⟩ : Schedule 16) = expand t.vl stg.subkey) : ControlInv t := by
  obtain ⟨_, _, hkey, hopl, hcml, _, _, _, hbusy⟩ := sequencerStep_frame h
  obtain ⟨_, _, hdone, herr⟩ := hbusy ht
  exact {
    busyNotDone := fun _ => by rw [hdone]; exact inv.busyNotDone hs
    errOnlyDone := by rw [herr, hdone]; exact inv.errOnlyDone
    idleStage := fun hidle => absurd hidle ht
    planned := fun _ => planned
    roundInSeq := roundInSeq
    narrowKey := fun _ => by rw [hopl, hkey]; exact inv.narrowKey hs
    cascadeKey := fun _ => by rw [hcml, hkey]; exact inv.cascadeKey hs
    narrowSt := narrowSt
    schedule := fun _ => schedule }

/-- Of an idle block the invariant speaks of ERR, the stage and ST alone. -/
theorem ControlInv.of_idle {s : State} (hidle : s.phase = .idle) (errOnlyDone : s.err ≠ .ok → s.done = true)
    (stage : s.stage = 0) (narrowSt : s.vl = .v8 → s.opl ≠ 0x7#4 → maskN .v8 s.st = s.st) : ControlInv s where
  busyNotDone := fun hbusy => absurd hidle hbusy
  errOnlyDone := errOnlyDone
  idleStage := fun _ => stage
  planned := fun hbusy => absurd hidle hbusy
  roundInSeq := fun i hrun => by rw [hidle] at hrun; cases hrun
  narrowKey := fun hbusy => absurd hidle hbusy
  cascadeKey := fun hbusy => absurd hidle hbusy
  narrowSt := narrowSt
  schedule := fun hbusy => absurd hidle hbusy

theorem ControlInv.complete {s : State} (inv : ControlInv s) : ControlInv s.complete :=
  .of_idle rfl (fun _ => rfl) rfl (by simpa using inv.narrowSt)

theorem seq_length_pos (dir : Dir) (v : Variant) : 0 < (seq dir v).length := by cases dir <;> cases v <;> simp [seq]

theorem val_succ_of_lt_seq {i : Fin 8} {dir : Dir} {v : Variant} (h : i.val + 1 < (seq dir v).length) :
    (i + 1).val = i.val + 1 := by
  have hle := seq_length_le dir v
  exact Fin.val_add_one_of_lt' (by omega)

theorem ControlInv.sequencer {s t : State} (inv : ControlInv s) (h : sequencerStep s = .next t) : ControlInv t := by
  rcases sequencerStep_cases h with ⟨_, rfl⟩ | ⟨stg, hp, hs, rfl⟩ | ⟨i, dir, k, r, hp, hs, hr, rfl⟩ |
    ⟨stg, hp, hs, hl, rfl⟩ | ⟨_, _, _, _, rfl⟩
  case inl => exact inv
  case inr.inl =>
    refine inv.of_busy_step h (by simp [hp]) (by dsimp only; split_ifs <;> simp) ⟨stg, hs⟩ ?_ inv.narrowSt ?_
    · intro i hi
      by_cases h7 : s.opl = 0x7#4
      · simp [h7] at hi
      · obtain ⟨dir, hdir⟩ := currentStage_dir hs h7
        obtain rfl : 0 = i := by simpa [h7] using hi
        exact ⟨dir, stg.subkey, hdir, seq_length_pos dir _⟩
    · intro _ stg' hs'
      obtain rfl : stg = stg' := Option.some.inj (hs.symm.trans hs')
      rfl
  case inr.inr.inl =>
    refine inv.of_busy_step h (by simp [hp]) (by dsimp only; split_ifs <;> simp) ⟨_, hs⟩ ?_ ?_ ?_
    · intro j hj
      by_cases hl : i.val + 1 < (seq dir s.vl).length
      · obtain rfl : i + 1 = j := by simpa [hl] using hj
        exact ⟨dir, k, hs, by rwa [val_succ_of_lt_seq hl]⟩
      · simp [hl] at hj
    · intro hv _
      exact maskN_v8_of_mem_seq hv (hv ▸ List.mem_of_getElem? hr)
    · intro _
      exact inv.schedule (by simp [hp]) (by simp [hp])
  case inr.inr.inr.inl =>
    refine inv.of_busy_step h (by simp [hp]) (by simp) ?_ (by simp) inv.narrowSt (fun hne => absurd rfl hne)
    have hmax := plan_length_le s
    have hval : (s.stage + 1).val = s.stage.val + 1 := Fin.val_add_one_of_lt' (by omega)
    exact ⟨_, List.getElem?_eq_getElem (l := s.plan) (by rwa [hval])⟩
  case inr.inr.inr.inr => exact inv.complete

/-! ## Every event keeps the invariant -/

/-- The check of R101, in the invariant's two forms. -/
theorem keys_of_keyFits {i : Instr} {k : Key} (h : keyTooWide (bitsOf i) k = false) :
    (opOf i ≠ 0x3#4 → opOf i ≠ 0x4#4 → k.extractLsb' 16 32 = 0#32) ∧ (cmOf i ≠ 0b10#2 → k.extractLsb' 32 16 = 0#16) := by
  have hhigh : k.extractLsb' 32 16 = (k.extractLsb' 16 32).extractLsb' 16 16 := by
    apply BitVec.eq_of_getLsbD_eq
    intro i hi
    simp [hi]
    grind
  rw [← Bool.not_eq_true, keyTooWide_bitsOf] at h
  push Not at h
  obtain ⟨hcascade, hplain⟩ := h
  refine ⟨fun h3 h4 => hplain ⟨h3, h4⟩, fun hcm => ?_⟩
  by_cases hop : opOf i = 0x3#4 ∨ opOf i = 0x4#4
  · exact hcascade hop hcm
  · rw [hhigh, hplain (by tauto)]
    rfl

theorem ControlInv.accept {s : State} {i : Instr} (hkey : keyTooWide (bitsOf i) s.key = false) :
    ControlInv (s.accept (opOf i) (cmOf i) i.variant (blockOf i s)) where
  busyNotDone := fun _ => rfl
  errOnlyDone := fun herr => absurd rfl herr
  idleStage := fun _ => rfl
  planned := fun _ => accept_planned i s _
  roundInSeq := fun _ hrun => by cases hrun
  narrowKey := fun _ => (keys_of_keyFits hkey).1
  cascadeKey := fun _ => (keys_of_keyFits hkey).2
  narrowSt := fun hv h7 => by
    have hv : i.variant = .v8 := hv
    exact hv ▸ maskN_blockOf h7
  schedule := fun _ hstart => absurd rfl hstart

/-- DONE and ERR may be written together in an idle block, and cleared together in any. -/
theorem ControlInv.withFlags {s : State} (inv : ControlInv s) {d w : Bool} {c : ErrCode} (hbusy : s.phase ≠ .idle → d = false)
    (herr : c ≠ .ok → d = true) : ControlInv { s with done := d, err := c, wovr := w } :=
  { inv with busyNotDone := hbusy, errOnlyDone := herr }

theorem ControlInv.statusWrite {s : State} (inv : ControlInv s) (v : Word) : ControlInv (s.statusWrite v) := by
  rw [s.statusWrite_eq v]
  refine inv.withFlags (fun hbusy => ?_) (fun herr => ?_)
  · simp [inv.busyNotDone hbusy]
  · obtain ⟨hbit, herr⟩ : v.getLsbD 1 = false ∧ s.err ≠ .ok := by simpa using herr
    rw [hbit]
    exact inv.errOnlyDone herr

theorem controlInv_reset : ControlInv State.reset := .of_idle rfl (by decide) rfl (by decide)

theorem ControlInv.occurs {e : Event} {s t : State} (inv : ControlInv s) (h : Occurs e s t) : ControlInv t := by
  cases h with
  | read | pollBusy | pollIdle | ignored | dropped | din | chain => exact { inv with }
  | reset => exact { controlInv_reset with }
  | illegal _ _ _ hidle | keyWidth _ _ _ hidle => exact inv.withFlags (fun hbusy => absurd hidle hbusy) (fun _ => rfl)
  | accepted _ _ i _ _ hkey => exact .accept hkey
  | status v => exact inv.statusWrite v
  | key _ _ _ _ hidle => exact .of_idle hidle inv.errOnlyDone (inv.idleStage hidle) inv.narrowSt
  | sequencer _ _ hstep => exact inv.sequencer hstep

theorem ControlInv.step {s t : State} (inv : ControlInv s) (h : step s = .next t) : ControlInv t := by
  cases hscript : s.script with
  | nil =>
    rw [step_of_nil hscript] at h
    exact inv.sequencer h
  | cons e rest =>
    rw [step_of_cons hscript] at h
    have inv : ControlInv { s with script := rest } := { inv with }
    exact inv.occurs (occurs_of_occur h)

/-! ## What a busy block does and reads as -/

/-- The sequencer's next state is another phase: no control state of the invariant is stuck (R64). -/
theorem ControlInv.sequencer_moves {s : State} (inv : ControlInv s) (hbusy : s.phase ≠ .idle) :
    ∃ t, sequencerStep s = .next t ∧ t.phase ≠ s.phase := by
  obtain ⟨stg, hs⟩ := inv.planned hbusy
  cases hp : s.phase with
  | idle => exact absurd hp hbusy
  | start =>
    refine ⟨_, sequencerStep_start hp hs, ?_⟩
    dsimp only
    split_ifs <;> simp
  | run i =>
    obtain ⟨dir, k, hs, hi⟩ := inv.roundInSeq i hp
    refine ⟨_, sequencerStep_round hp hs (List.getElem?_eq_getElem hi), ?_⟩
    dsimp only
    split_ifs with hl
    · have hval := val_succ_of_lt_seq hl
      rw [ne_eq, Phase.run.injEq, ← Fin.val_inj]
      omega
    · simp
  | sdone =>
    by_cases hl : s.stage.val + 1 < s.plan.length
    · exact ⟨_, sequencerStep_nextStage hp hs hl, by simp⟩
    · exact ⟨_, sequencerStep_complete hp hs hl, by simp⟩

theorem ControlInv.sequencer_answers {s : State} (inv : ControlInv s) : ∃ t, sequencerStep s = .next t := by
  by_cases hp : s.phase = .idle
  · exact ⟨s, by simp [sequencerStep, hp]⟩
  · obtain ⟨t, ht, _⟩ := inv.sequencer_moves hp
    exact ⟨t, ht⟩

theorem commandWrite_answers (w : Word) (s : State) : ∃ t, commandWrite w s = .next t := by
  rcases commandWrite_cases w s with ⟨_, e⟩ | ⟨_, _, e⟩ | ⟨_, i, _, ⟨_, e⟩ | ⟨_, e⟩⟩ <;> exact ⟨_, e⟩

theorem hostWrite_answers (s : State) (a : Addr) (v : Word) : ∃ t, s.hostWrite commandWrite a v = .next t := by
  rcases hostWrite_cases s a v with ⟨_, e⟩ | ⟨_, e⟩ | ⟨_, e⟩ | ⟨_, e⟩ | ⟨_, e⟩ | ⟨_, e⟩ | ⟨_, e⟩ | e
  · rw [e]
    exact commandWrite_answers v s
  all_goals exact ⟨_, e⟩

theorem ControlInv.occur_answers {s : State} (inv : ControlInv s) {e : Event} (he : ∀ k, e ≠ .badAccess k) :
    ∃ t, occur e s = .next t := by
  cases e with
  | read | poll | reset => exact ⟨_, rfl⟩
  | write a v => exact hostWrite_answers s a v
  | sequencer => exact inv.sequencer_answers
  | badAccess k => exact absurd rfl (he k)

theorem State.statusWord_of_busy {s : State} (hbusy : s.phase ≠ .idle) (hdone : s.done = false) (herr : s.err = .ok) :
    s.statusWord = if s.wovr then 0x0011#16 else 0x0001#16 := by
  simp only [State.statusWord, s.busy_eq_true.2 hbusy, hdone, herr]
  cases s.wovr <;> rfl

theorem ControlInv.err_of_busy {s : State} (inv : ControlInv s) (hbusy : s.phase ≠ .idle) : s.err = .ok := by
  by_contra herr
  have hdone := inv.errOnlyDone herr
  rw [inv.busyNotDone hbusy] at hdone
  cases hdone

/-! ## The walk of the phase (R64) -/

/-- KEY changes the subkeys of a plan's stages and neither their number nor their directions (R66). -/
theorem plan_dirs (op : BitVec 4) (cm : BitVec 2) (k k' : Key) : (plan op cm k).map Stage.dir = (plan op cm k').map Stage.dir := by
  unfold plan
  split <;> rfl

/-- The fields the walk depends on. -/
def SameControl (s s' : State) : Prop :=
  s.phase = s'.phase ∧ s.stage = s'.stage ∧ s.opl = s'.opl ∧ s.cml = s'.cml ∧ s.vl = s'.vl

section Walk

variable {s s' : State}

theorem SameControl.plan_dirs (h : SameControl s s') : s.plan.map Stage.dir = s'.plan.map Stage.dir := by
  obtain ⟨_, _, hopl, hcml, _⟩ := h
  rw [State.plan, State.plan, hopl, hcml]
  exact Machine.plan_dirs _ _ _ _

theorem SameControl.plan_length (h : SameControl s s') : s.plan.length = s'.plan.length := by
  simpa using congrArg List.length h.plan_dirs

theorem SameControl.currentStage (h : SameControl s s') {stg : Stage} (hs : s.currentStage = some stg) :
    ∃ k, s'.currentStage = some ⟨stg.dir, k⟩ := by
  have hdir := congrArg (·[s.stage.val]?) h.plan_dirs
  obtain ⟨_, hstage, _⟩ := h
  simp only [List.getElem?_map] at hdir
  rw [← State.currentStage, hs, hstage, ← State.currentStage] at hdir
  obtain ⟨stg', hs', hdir⟩ := Option.map_eq_some_iff.1 hdir.symm
  exact ⟨stg'.subkey, by rw [hs', ← hdir]⟩

theorem SameControl.sequencerStep (h : SameControl s s') {t : State} (hstep : sequencerStep s = .next t) :
    ∃ t', Machine.sequencerStep s' = .next t' ∧ SameControl t t' := by
  obtain ⟨hphase, hstage, hopl, hcml, hvl⟩ := id h
  rcases sequencerStep_cases hstep with ⟨hp, rfl⟩ | ⟨stg, hp, hs, rfl⟩ | ⟨i, dir, k, r, hp, hs, hr, rfl⟩ |
    ⟨stg, hp, hs, hl, rfl⟩ | ⟨stg, hp, hs, hl, rfl⟩
  all_goals rw [hphase] at hp
  case inl => exact ⟨s', by simp [Machine.sequencerStep, hp], h⟩
  all_goals obtain ⟨k', hs'⟩ := h.currentStage hs
  case inr.inl => exact ⟨_, sequencerStep_start hp hs', by simp [SameControl, *]⟩
  case inr.inr.inl => exact ⟨_, sequencerStep_round hp hs' (hvl ▸ hr), by simp [SameControl, *]⟩
  case inr.inr.inr.inl =>
    exact ⟨_, sequencerStep_nextStage hp hs' (by rwa [← hstage, ← h.plan_length]), by simp [SameControl, *]⟩
  case inr.inr.inr.inr =>
    exact ⟨_, sequencerStep_complete hp hs' (by rwa [← hstage, ← h.plan_length]), by simp [SameControl, *]⟩

end Walk

end Sys2Proof.Machine

namespace Sys2Proof

open Sys2Proof.Machine

/-- Settles O46: the invariant is kept by every outcome of an event (`ControlInv.occurs`), the sequencer's among them. -/
theorem stepKeepsTheControlInvariant : Obligations.StepKeepsTheControlInvariant := fun _ _ inv h => inv.step h

/-- Settles O45: the block is idle. -/
theorem resetMeetsTheControlInvariant : Obligations.ResetMeetsTheControlInvariant := controlInv_reset

/-- Settles O47: an event of the interface answers by `ControlInv.occur_answers`, and so does the sequencer. -/
theorem stepNeverStops : Obligations.StepNeverStops := by
  intro s inv hbad
  cases hscript : s.script with
  | nil =>
    rw [step_of_nil hscript]
    exact inv.sequencer_answers
  | cons e rest =>
    rw [step_of_cons hscript]
    have inv : ControlInv { s with script := rest } := { inv with }
    refine inv.occur_answers (fun k hk => hbad k rest ?_)
    rw [hscript, hk]

/-- Settles O48: the flags are those of a busy block, and RK0-RK2 the schedule of the stage that `planned` gives. -/
theorem busyReadsAreDefined : Obligations.BusyReadsAreDefined := by
  intro s inv hbusy
  refine ⟨State.statusWord_of_busy hbusy (inv.busyNotDone hbusy) (inv.err_of_busy hbusy), fun hstart => ?_⟩
  obtain ⟨stg, hs⟩ := inv.planned hbusy
  obtain ⟨h0, h1, h2⟩ := Schedule.mk.inj (inv.schedule hbusy hstart stg hs)
  exact ⟨stg, hs, h0, h1, h2⟩

/-- Settles O36: a busy block moves on (`ControlInv.sequencer_moves`), by the fields of `SameControl` alone. -/
theorem phaseWalkIgnoresData : Obligations.PhaseWalkIgnoresData := by
  refine ⟨fun s hidle => by simp [sequencerStep, hidle], fun s inv hbusy => inv.sequencer_moves hbusy, ?_⟩
  intro s s' t hphase hstage hopl hcml hvl hstep
  exact SameControl.sequencerStep ⟨hphase, hstage, hopl, hcml, hvl⟩ hstep

end Sys2Proof
end

section
/-! PROOFS. The datapath's laws (rules R46 to R57): field multiplication, the layers and their inverses, and the key schedule; then the round
steps of a stage as the cipher (rules R63, R68). -/

namespace Sys2Proof.Machine

/-! ## Field multiplication (R50) -/

theorem gmul_comm : ∀ a b : Nibble, gmul a b = gmul b a := by decide +kernel

theorem gmul_assoc : ∀ a b c : Nibble, gmul (gmul a b) c = gmul a (gmul b c) := by decide +kernel

theorem gmul_xor : ∀ a b c : Nibble, gmul a (b ^^^ c) = gmul a b ^^^ gmul a c := by decide +kernel

theorem gmul_one_zero : ∀ a : Nibble, gmul 0x1#4 a = a ∧ gmul 0x0#4 a = 0x0#4 := by decide

theorem gmul_exists_inverse : ∀ a : Nibble, a ≠ 0x0#4 → ∃ b, gmul a b = 0x1#4 := by decide +kernel

/-- An inverse of `a` cancels `a`, so there is only one. -/
theorem gmul_inverse_unique {a b c : Nibble} (hb : gmul a b = 0x1#4) (hc : gmul a c = 0x1#4) : c = b := by
  calc c = gmul (gmul a b) c := by rw [hb, (gmul_one_zero c).1]
    _ = gmul b (gmul a c) := by rw [gmul_comm a b, gmul_assoc]
    _ = b := by rw [hc, gmul_comm, (gmul_one_zero b).1]

/-! ## Diffusion (R52) -/

theorem mix_xor (a b : Word) : mix (a ^^^ b) = mix a ^^^ mix b := by
  simp only [mix, decode16_xor, pack16_xor, gmul_xor]
  congr 2 <;> ac_rfl

/-- The matrix's square is multiplication by 2, on each of the two pairs of nibbles. -/
theorem mix_mix (x : Word) :
    mix (mix x) = pack16 ⟨gmul 0x2#4 (decode16 x).s0, gmul 0x2#4 (decode16 x).s1, gmul 0x2#4 (decode16 x).s2,
      gmul 0x2#4 (decode16 x).s3⟩ := by
  simp [mix, gmul_mix_mix]

/-- Only 0 is twice itself, so only the zero word is its own image under the square. -/
theorem mix_mix_eq_self_iff (x : Word) : mix (mix x) = x ↔ x = 0x0000#16 := by
  refine ⟨fun h => ?_, by rintro rfl; decide⟩
  have h := congrArg decode16 h
  rw [mix_mix, decode16_pack16] at h
  have h0 := (gmul_two_eq_self _).1 (congrArg Nibbles4.s0 h)
  have h1 := (gmul_two_eq_self _).1 (congrArg Nibbles4.s1 h)
  have h2 := (gmul_two_eq_self _).1 (congrArg Nibbles4.s2 h)
  have h3 := (gmul_two_eq_self _).1 (congrArg Nibbles4.s3 h)
  rw [← pack16_nibbles x, h0, h1, h2, h3]
  rfl

/-! ## The third word of a schedule (R57, R58) -/

theorem expand16_rk1_high (k : Word) : (expand16 k).rk1.extractLsb' 8 8 = (expand8 k).rk2 :=
  extractLsb'_append_high (m := 8) (n := 8) _ _

/-- `w2 = w0 ^ RCON1 ^ SubstituteByte(w1)`, the nibbles of `w1` being the key's low two. -/
theorem expand8_rk2 (k : Word) :
    (expand8 k).rk2 = k.extractLsb' 8 8 ^^^ 0x80#8 ^^^ (sbox (k.extractLsb' 4 4) ++ sbox (k.extractLsb' 0 4)) := by
  simp only [expand8, substituteByte_eq, rcon1]
  rw [BitVec.extractLsb'_extractLsb'_of_le (by decide), BitVec.extractLsb'_extractLsb'_of_le (by decide)]

/-! ## The round steps of a stage (R63, R68) -/

/-- Applied to ST in order, with RK0-RK2 the schedule of `k`, they compute the stage's cipher. -/
theorem foldl_seq (dir : Dir) (s : State) (k : Word) (hks : (⟨s.rk0, s.rk1, s.rk2⟩ : Schedule 16) = expand s.vl k) :
    ((seq dir s.vl).foldl (fun (x : State) r => { x with st := r.apply x }) s).st = stageOutput dir s.vl s.st k := by
  obtain ⟨h0, h1, h2⟩ := Schedule.mk.inj hks
  cases dir <;> cases hv : s.vl <;>
    simp [hv, h0, h1, h2, seq, RoundStep.apply, stageOutput, keyMixN, subNibN, invSubNibN, permN, onBlock, encN, decN, enc16, enc8,
      dec16, dec8, perm8]

/-- The phase after round step `i`, the bound of RUN written out. -/
theorem afterRound_eq (i : Fin 8) (dir : Dir) (v : Variant) :
    (if i.val + 1 < (seq dir v).length then Phase.run (i + 1) else .sdone) =
      if h : i.val + 1 < (seq dir v).length ∧ i.val + 1 < 8 then .run ⟨i.val + 1, h.2⟩ else .sdone := by
  by_cases hl : i.val + 1 < (seq dir v).length
  · have hval := val_succ_of_lt_seq hl
    have hlt : i.val + 1 < 8 := hval ▸ (i + 1).isLt
    rw [if_pos hl, dif_pos ⟨hl, hlt⟩, Phase.run.injEq]
    exact Fin.ext hval
  · rw [if_neg hl, dif_neg (fun h => hl h.1)]

end Sys2Proof.Machine

namespace Sys2Proof

open Sys2Proof.Machine

/-- Settles O31: the laws by the table of products, the inverse's uniqueness by cancellation. -/
theorem fieldMultiplicationLaws : Obligations.FieldMultiplicationLaws := by
  refine ⟨gmul_comm, gmul_assoc, gmul_xor, gmul_one_zero, fun a ha => ?_⟩
  obtain ⟨b, hb⟩ := gmul_exists_inverse a ha
  exact ⟨b, hb, fun c hc => gmul_inverse_unique hb hc⟩

/-- Settles O29: the matrices' laws, two nibbles at a time. -/
theorem inverseDiffusionInvertsDiffusion : Obligations.InverseDiffusionInvertsDiffusion :=
  ⟨fun x => ⟨invMix_mix x, mix_invMix x⟩, mix_xor, rfl, mix_mix, mix_mix_eq_self_iff⟩

/-- Settles O30: each layer's inverse undoes it. -/
theorem substitutionPermutationAndKeyMixingAreInvertible : Obligations.SubstitutionPermutationAndKeyMixingAreInvertible :=
  ⟨fun x => ⟨invSubNib16_subNib16 x, subNib16_invSubNib16 x, perm16_perm16 x⟩,
    fun x => ⟨invSubNib8_subNib8 x, subNib8_invSubNib8 x, perm8_perm8 x⟩, keyMix16_keyMix16, keyMix8_keyMix8⟩

/-- Settles O32: RK0 is the key itself, and the third word is the same in both schedules. -/
theorem keyScheduleKeepsTheKey : Obligations.KeyScheduleKeepsTheKey := by
  refine ⟨expand16_rk0, fun k k' h => ?_, fun k => ?_, fun k => (expand16_rk1_high k).symm, by decide⟩
  · rw [← expand16_rk0 k, h, expand16_rk0]
  · rw [expand16_rk1_high, expand8_rk2]

/-- Settles O38: the round steps in order, and one round step with its next phase. -/
theorem roundSequencesComputeTheCipher : Obligations.RoundSequencesComputeTheCipher := by
  refine ⟨fun v k s hv hks => ?_, fun s i dir k r hp hs hr => ?_, fun dir => by cases dir <;> exact ⟨rfl, rfl⟩⟩
  · subst hv
    exact ⟨foldl_seq .encrypt s k hks, foldl_seq .decrypt s k hks⟩
  · rw [sequencerStep_round hp hs hr, afterRound_eq]

end Sys2Proof
end

section
/-! PROOFS. Host reads (rules R12, R93, R116): the word at every address, and what the sequencer leaves of it. -/

namespace Sys2Proof.Machine

/-! ## The word at an address (R11, R93) -/

theorem Reg.addr_lt (r : Reg) : r.addr.toNat < 0xB := by cases r <;> decide

theorem State.hostRead_reserved (s : State) {a : Addr} (ha : 0xB ≤ a.toNat) : s.hostRead a = 0x0000#16 := by
  cases hreg : Reg.ofAddr a with
  | none => simp only [State.hostRead, hreg]
  | some r =>
    obtain rfl := Reg.addr_of_ofAddr a r hreg
    exact absurd r.addr_lt (Nat.not_lt.2 ha)

theorem State.busy_eq_decide (s : State) : s.busy = decide (s.phase ≠ .idle) := by
  rw [Bool.eq_iff_iff, s.busy_eq_true, decide_eq_true_iff]

/-- The flags at their places in STATUS. -/
theorem State.statusWord_toNat (s : State) :
    s.statusWord.toNat = 16 * s.wovr.toNat + 4 * s.err.code.toNat + 2 * s.done.toNat + s.busy.toNat := by
  unfold State.statusWord
  cases s.wovr <;> cases s.err <;> cases s.done <;> cases s.busy <;> rfl

/-! ## Key windows (R12) -/

section KeyWindows

variable (k : Key) (v : Word)

@[simp] theorem keyLow_setKey0 : keyLow (setKey0 k v) = v := keyLow_keyOfWindows _ _ _
@[simp] theorem keyMid_setKey0 : keyMid (setKey0 k v) = keyMid k := keyMid_keyOfWindows _ _ _
@[simp] theorem keyHigh_setKey0 : keyHigh (setKey0 k v) = keyHigh k := keyHigh_keyOfWindows _ _ _
@[simp] theorem keyLow_setKey1 : keyLow (setKey1 k v) = keyLow k := keyLow_keyOfWindows _ _ _
@[simp] theorem keyMid_setKey1 : keyMid (setKey1 k v) = v := keyMid_keyOfWindows _ _ _
@[simp] theorem keyHigh_setKey1 : keyHigh (setKey1 k v) = keyHigh k := keyHigh_keyOfWindows _ _ _
@[simp] theorem keyLow_setKey2 : keyLow (setKey2 k v) = keyLow k := keyLow_keyOfWindows _ _ _
@[simp] theorem keyMid_setKey2 : keyMid (setKey2 k v) = keyMid k := keyMid_keyOfWindows _ _ _
@[simp] theorem keyHigh_setKey2 : keyHigh (setKey2 k v) = v := keyHigh_keyOfWindows _ _ _

end KeyWindows

/-- An idle block lets a guarded write through (R94). -/
theorem eq_of_occur_write {s t u : State} {a : Addr} {v : Word} (hidle : s.phase = .idle)
    (hwrite : occur (.write a v) s = .next (s.whenIdle u)) (h : occur (.write a v) s = .next t) : u = t := by
  rw [s.whenIdle_of_idle hidle] at hwrite
  exact Host.Outcome.next.inj (hwrite.symm.trans h)

/-! ## What a sequencer step leaves of the results (R70, R116) -/

section Sequencer

variable {s t : State}

theorem sequencerStep_keeps_schedule (h : sequencerStep s = .next t) (hp : s.phase ≠ .start) :
    t.rk0 = s.rk0 ∧ t.rk1 = s.rk1 ∧ t.rk2 = s.rk2 := by
  rcases sequencerStep_cases h with ⟨_, rfl⟩ | ⟨_, hstart, _⟩ | ⟨_, _, _, _, _, _, _, rfl⟩ | ⟨_, _, _, _, rfl⟩ | ⟨_, _, _, _, rfl⟩
  case inr.inl => exact absurd hstart hp
  all_goals simp

theorem sequencerStep_loads_schedule {stg : Stage} (h : sequencerStep s = .next t) (hp : s.phase = .start)
    (hs : s.currentStage = some stg) :
    t.rk0 = (expand s.vl stg.subkey).rk0 ∧ t.rk1 = (expand s.vl stg.subkey).rk1 ∧ t.rk2 = (expand s.vl stg.subkey).rk2 := by
  rw [sequencerStep_start hp hs] at h
  cases h
  exact ⟨rfl, rfl, rfl⟩

/-- A step that ends at IDLE is a completion, or quiescent. -/
theorem eq_complete_of_idle (h : sequencerStep s = .next t) (ht : t.phase = .idle) :
    t = s ∨ (s.phase = .sdone ∧ t = s.complete) := by
  rcases sequencerStep_cases h with ⟨_, rfl⟩ | ⟨_, _, _, rfl⟩ | ⟨_, _, _, _, _, _, _, rfl⟩ | ⟨_, _, _, _, rfl⟩ | ⟨_, hp, _, _, rfl⟩
  case inl => exact .inl rfl
  case inr.inr.inr.inr => exact .inr ⟨hp, rfl⟩
  case inr.inr.inr.inl => cases ht
  all_goals
    dsimp only at ht
    split_ifs at ht

theorem sequencerStep_dout_change (h : sequencerStep s = .next t) (hne : t.dout ≠ s.dout) :
    s.phase = .sdone ∧ t.phase = .idle ∧ t.done = true ∧ s.opl ≠ 0x7#4 := by
  obtain ⟨_, _, _, _, _, _, _, _, hbusy⟩ := sequencerStep_frame h
  have ht : t.phase = .idle := by
    by_contra ht
    obtain ⟨_, hdout, _⟩ := hbusy ht
    exact hne hdout
  rcases eq_complete_of_idle h ht with rfl | ⟨hp, rfl⟩
  · exact absurd rfl hne
  · refine ⟨hp, rfl, rfl, fun h7 => hne ?_⟩
    rw [State.complete_dout, State.writeResults_of_kexp h7]

theorem sequencerStep_chain_change (h : sequencerStep s = .next t) (hne : t.chain ≠ s.chain) :
    s.phase = .sdone ∧ t.phase = .idle ∧ t.done = true ∧ (s.opl = 0x5#4 ∨ s.opl = 0x6#4) := by
  obtain ⟨_, _, _, _, _, _, _, _, hbusy⟩ := sequencerStep_frame h
  have ht : t.phase = .idle := by
    by_contra ht
    obtain ⟨hchain, _⟩ := hbusy ht
    exact hne hchain
  rcases eq_complete_of_idle h ht with rfl | ⟨hp, rfl⟩
  · exact absurd rfl hne
  · refine ⟨hp, rfl, rfl, ?_⟩
    by_contra hop
    push Not at hop
    obtain ⟨h5, h6⟩ := hop
    refine hne ?_
    rw [State.complete_chain]
    by_cases h7 : s.opl = 0x7#4
    · rw [State.writeResults_of_kexp h7]
    · rw [State.writeResults_of_block h5 h6 h7]

end Sequencer

end Sys2Proof.Machine

namespace Sys2Proof

open Sys2Proof.Machine

/-- Settles O8: the register map address by address, and what a sequencer step leaves of the registers that it can write. -/
theorem hostReadReturnsTheRegister : Obligations.HostReadReturnsTheRegister := by
  refine ⟨fun _ _ => rfl, fun s => ?_, rfl, fun s t h ht => ?_, fun s t stg h hp hs => sequencerStep_loads_schedule h hp hs,
    fun s t h hp => sequencerStep_keeps_schedule h hp⟩
  · refine ⟨rfl, ?_, rfl, rfl, rfl, rfl, rfl, rfl, rfl, rfl, rfl, fun a ha => s.hostRead_reserved ha⟩
    rw [← s.busy_eq_decide]
    exact s.statusWord_toNat
  · obtain ⟨_, _, _, _, _, _, _, _, hbusy⟩ := sequencerStep_frame h
    obtain ⟨hchain, hdout, _⟩ := hbusy ht
    exact ⟨hdout, hchain⟩

/-- Settles O11: a write to a window sets it and keeps the other two. -/
theorem keyWindowsAreIndependent : Obligations.KeyWindowsAreIndependent := by
  intro s t v hidle
  refine ⟨fun h => ?_, fun h => ?_, fun h => ?_⟩
  · obtain rfl := eq_of_occur_write hidle (occur_write_key0 s v) h
    exact ⟨keyLow_setKey0 _ v, keyMid_setKey0 _ v, keyHigh_setKey0 _ v⟩
  · obtain rfl := eq_of_occur_write hidle (occur_write_key1 s v) h
    exact ⟨keyMid_setKey1 _ v, keyLow_setKey1 _ v, keyHigh_setKey1 _ v⟩
  · obtain rfl := eq_of_occur_write hidle (occur_write_key2 s v) h
    exact ⟨keyHigh_setKey2 _ v, keyLow_setKey2 _ v, keyMid_setKey2 _ v⟩

end Sys2Proof
end

section
/-! PROOFS. Events and steps (rules R10, R13 to R15, R18, R43, R96, R111): what moves the results and the phase, what a step does with the
script, and the lines that stand for accesses. -/

namespace Sys2Proof.Machine

/-! ## What moves the results and the phase -/

section Changes

variable {e : Event} {s t : State}

theorem Occurs.dout_change (h : Occurs e s t) (hreset : e ≠ .reset) (hne : t.dout ≠ s.dout) :
    e = .sequencer ∧ s.phase = .sdone ∧ t.phase = .idle ∧ t.done = true ∧ s.opl ≠ 0x7#4 := by
  cases h with
  | sequencer _ _ hstep => exact ⟨rfl, sequencerStep_dout_change hstep hne⟩
  | reset => exact absurd rfl hreset
  | status v => exact absurd (by rw [s.statusWrite_eq v]) hne
  | read | pollBusy | pollIdle | dropped | illegal | keyWidth | accepted | din | key | chain | ignored => exact absurd rfl hne

theorem Occurs.chain_change (h : Occurs e s t) (hreset : e ≠ .reset) (hne : t.chain ≠ s.chain) :
    (s.phase = .idle ∧ ∃ v, e = .write Reg.chain.addr v ∧ t.chain = v) ∨
    (e = .sequencer ∧ s.phase = .sdone ∧ t.phase = .idle ∧ t.done = true ∧ (s.opl = 0x5#4 ∨ s.opl = 0x6#4)) := by
  cases h with
  | sequencer _ _ hstep => exact .inr ⟨rfl, sequencerStep_chain_change hstep hne⟩
  | chain v _ hidle => exact .inl ⟨hidle, v, rfl, rfl⟩
  | reset => exact absurd rfl hreset
  | status v => exact absurd (by rw [s.statusWrite_eq v]) hne
  | read | pollBusy | pollIdle | dropped | illegal | keyWidth | accepted | din | key | ignored => exact absurd rfl hne

theorem Occurs.keeps_schedule (h : Occurs e s t) (hreset : e ≠ .reset) (hstart : ¬ (e = .sequencer ∧ s.phase = .start)) :
    t.rk0 = s.rk0 ∧ t.rk1 = s.rk1 ∧ t.rk2 = s.rk2 := by
  cases h with
  | sequencer _ _ hstep => exact sequencerStep_keeps_schedule hstep (fun hp => hstart ⟨rfl, hp⟩)
  | reset => exact absurd rfl hreset
  | status v =>
    rw [s.statusWrite_eq v]
    exact ⟨rfl, rfl, rfl⟩
  | read | pollBusy | pollIdle | dropped | illegal | keyWidth | accepted | din | key | chain | ignored => exact ⟨rfl, rfl, rfl⟩

theorem Occurs.phase_change (h : Occurs e s t) (hne : t.phase ≠ s.phase) :
    e = .reset ∨ (e = .sequencer ∧ s.phase ≠ .idle ∧ (t.phase = .idle → s.phase = .sdone ∧ t.done = true)) ∨
    (∃ w i, e = .write Reg.cmd.addr w ∧ decode w = .ok i ∧ s.phase = .idle ∧ t.phase = .start ∧ t.stage = 0) := by
  cases h with
  | reset => exact .inl rfl
  | sequencer _ _ hstep =>
    refine .inr (.inl ⟨rfl, fun hidle => hne ?_, fun ht => ?_⟩)
    · have hquiet : sequencerStep s = .next s := by simp [sequencerStep, hidle]
      cases hquiet.symm.trans hstep
      rfl
    · rcases eq_complete_of_idle hstep ht with rfl | ⟨hp, rfl⟩
      · exact absurd rfl hne
      · exact ⟨hp, rfl⟩
  | accepted w _ i hidle hdecode => exact .inr (.inr ⟨w, i, rfl, hdecode, hidle, rfl, rfl⟩)
  | status v => exact absurd (s.statusWrite_phase v) hne
  | read | pollBusy | pollIdle | dropped | illegal | keyWidth | din | key | chain | ignored => exact absurd rfl hne

end Changes

/-! ## Steps and the script -/

theorem runSteps_one_eq (s : State) : runSteps 1 s = step s := by
  simp only [runSteps]
  cases step s <;> rfl

/-- The first event of the script, then the rest of the run. -/
theorem runSteps_cons {s t : State} {e : Event} {rest : List Event} (hscript : s.script = e :: rest)
    (h : occur e { s with script := rest } = .next t) (n : Nat) : runSteps (n + 1) s = runSteps n t :=
  runSteps_succ ((step_of_cons hscript).trans h) n

theorem step_of_command {s : State} {w : Word} {i : Instr} {rest : List Event} (hscript : s.script = .write Reg.cmd.addr w :: rest)
    (hdecode : decode w = .ok i) : step s = exec i { s with script := rest } := by
  rw [step_of_cons hscript, occur_write_cmd, commandWrite_of_decode _ hdecode]

theorem commandWrite_of_error {w : Word} {x : DecodeError} (s : State) (h : decode w = .error x) :
    commandWrite w s = .next (illegalCommand s) := by
  simp only [commandWrite, h]

/-- A guarded write that an idle block lets through, as the first event of the script (R94). -/
theorem runSteps_write (s : State) {u : State} {a : Addr} {v : Word} {rest : List Event} (hidle : s.phase = .idle)
    (h : occur (.write a v) { s with script := rest } = .next (State.whenIdle { s with script := rest } u)) (n : Nat) :
    runSteps (n + 1) { s with script := .write a v :: rest } = runSteps n u := by
  rw [State.whenIdle_of_idle (s := { s with script := rest }) hidle] at h
  exact runSteps_cons (s := { s with script := .write a v :: rest }) rfl h n

/-! ## WRKEY (R43) -/

/-- The three windows written one after another are the whole of KEY. -/
theorem setKey_windows (k k' : Key) : setKey2 (setKey1 (setKey0 k (keyLow k')) (keyMid k')) (keyHigh k') = k' := by
  rw [setKey2, keyMid_setKey1, keyLow_setKey1, keyLow_setKey0, keyOfWindows_self]

theorem runSteps_wrkey (s : State) (k : Key) (rest : List Event) (hidle : s.phase = .idle) :
    runSteps 3 { s with script := HostLine.events (.wrkey k) ++ rest } = .next { s with key := k, script := rest } := by
  let k0 := setKey0 s.key (keyLow k)
  let k1 := setKey1 k0 (keyMid k)
  calc runSteps 3 { s with script := HostLine.events (.wrkey k) ++ rest }
      = runSteps 2 { s with
          key := k0, script := .write Reg.key1.addr (keyMid k) :: .write Reg.key2.addr (keyHigh k) :: rest } :=
        runSteps_write s hidle (occur_write_key0 _ _) 2
    _ = runSteps 1 { s with key := k1, script := .write Reg.key2.addr (keyHigh k) :: rest } :=
        runSteps_write { s with key := k0 } hidle (occur_write_key1 _ _) 1
    _ = runSteps 0 { s with key := setKey2 k1 (keyHigh k), script := rest } :=
        runSteps_write { s with key := k1 } hidle (occur_write_key2 _ _) 0
    _ = .next { s with key := k, script := rest } := by rw [setKey_windows]; rfl

end Sys2Proof.Machine

namespace Sys2Proof

open Sys2Proof.Machine

/-- Settles O43: the outcomes of an event (`Occurs`) that write a result register. -/
theorem resultRegistersChangeOnlyByRule : Obligations.ResultRegistersChangeOnlyByRule := by
  intro e s t h hreset
  have h := occurs_of_occur h
  refine ⟨h.dout_change hreset, h.chain_change hreset, fun hne => ?_⟩
  by_contra hstart
  obtain ⟨h0, h1, h2⟩ := h.keeps_schedule hreset hstart
  simp [h0, h1, h2] at hne

/-- Settles O44: the outcomes of an event (`Occurs`) that write the phase. -/
theorem phaseMovesOnlyByRule : Obligations.PhaseMovesOnlyByRule := fun _ _ _ h hne => (occurs_of_occur h).phase_change hne

/-- Settles O1: reset writes every field but the script and the log. -/
theorem resetClearsEveryRegister : Obligations.ResetClearsEveryRegister := ⟨fun _ => rfl, rfl, rfl⟩

/-- Settles O2: a step by the head of the script, and a CMD write by what its word decodes to. -/
theorem stepRunsTheDecodedCommand : Obligations.StepRunsTheDecodedCommand := by
  refine ⟨fun _ h => step_of_nil h, fun _ _ _ h => step_of_cons h, fun _ _ _ _ h hdecode => step_of_command h hdecode,
    fun s w x rest h hdecode => ?_, fun _ => rfl⟩
  rw [step_of_cons h]
  exact commandWrite_of_error _ hdecode

/-- Settles O3: `occur` refuses the event. -/
theorem missingAccessIsRefused : Obligations.MissingAccessIsRefused := fun _ _ _ h => step_of_cons h

/-- Settles O41: WRKEY's three writes make up KEY, CLR's word has bits 1 and 4, and a CMD line's word decodes to its command. -/
theorem hostLinesDoWhatTheyAbbreviate : Obligations.HostLinesDoWhatTheyAbbreviate := by
  refine ⟨fun s k rest hidle h => ?_, fun s rest h => ?_, fun s i rest h => ?_⟩
  · rw [← runSteps_wrkey s k rest hidle, ← h]
  · rw [runSteps_one_eq, step_of_cons h, occur_write_status, State.statusWrite_eq]
    rfl
  · rw [runSteps_one_eq, step_of_command h (decode_encode i)]
    rfl

end Sys2Proof
end

section
/-! PROOFS. A command in progress beside the host (rules R10, R43, R104): accesses between the sequencer's steps change nothing of the block
but WOVR, and POLL ends. -/

namespace Sys2Proof.Machine

/-! ## What the sequencer does not read -/

/-- The block with other values of WOVR, the script and the log. -/
def State.withOutside (s : State) (w : Bool) (es : List Event) (log : List (Addr × Word)) : State :=
  { s with wovr := w, script := es, readLog := log }

section Outside

variable {s t : State} (w : Bool) (es : List Event) (log : List (Addr × Word))

theorem State.complete_withOutside (s : State) : (s.withOutside w es log).complete = s.complete.withOutside w es log := by
  unfold State.complete State.writeResults State.withOutside
  dsimp only
  split_ifs <;> rfl

theorem runSteps_cons_withOutside {e : Event} (h : occur e (s.withOutside w es log) = .next t) (n : Nat) :
    runSteps (n + 1) (s.withOutside w (e :: es) log) = runSteps n t :=
  runSteps_succ (s := s.withOutside w (e :: es) log) h n

theorem sequencerStep_withOutside (h : sequencerStep s = .next t) :
    sequencerStep (s.withOutside w es log) = .next (t.withOutside w es log) := by
  rcases sequencerStep_cases h with ⟨hp, rfl⟩ | ⟨stg, hp, hs, rfl⟩ | ⟨i, dir, k, r, hp, hs, hr, rfl⟩ |
    ⟨stg, hp, hs, hl, rfl⟩ | ⟨stg, hp, hs, hl, rfl⟩
  · simp [sequencerStep, State.withOutside, hp]
  · exact sequencerStep_start hp hs
  · exact (sequencerStep_round (s := s.withOutside w es log) hp hs hr).trans (by cases r <;> rfl)
  · exact sequencerStep_nextStage hp hs hl
  · rw [← State.complete_withOutside]
    exact sequencerStep_complete hp hs hl

theorem runSteps_sequencer_withOutside (h : sequencerStep s = .next t) (n : Nat) :
    runSteps (n + 1) (s.withOutside w (.sequencer :: es) log) = runSteps n (t.withOutside w es log) :=
  runSteps_cons_withOutside (e := .sequencer) w es log (sequencerStep_withOutside w es log h) n

end Outside

/-! ## A run to completion, step by step -/

theorem CompletesIn.cons {n : Nat} {s t u : State} (hbusy : s.phase ≠ .idle) (hstep : sequencerStep s = .next t)
    (h : CompletesIn n t u) : CompletesIn (n + 1) s u := by
  obtain ⟨hrun, hidle, hbefore⟩ := h
  exact (BusyRun.cons hbusy hstep ⟨hrun, hbefore⟩).completes hidle

theorem CompletesIn.first_step {n : Nat} {s u : State} (h : CompletesIn (n + 1) s u) :
    s.phase ≠ .idle ∧ ∃ t, sequencerStep s = .next t ∧ CompletesIn n t u := by
  obtain ⟨hrun, hidle, hbusy⟩ := h
  obtain ⟨s', hs', hp⟩ := hbusy 0 (by omega)
  cases hs'
  refine ⟨hp, ?_⟩
  cases hstep : sequencerStep s with
  | next t =>
    refine ⟨t, rfl, (runSequencer_succ hstep n).symm.trans hrun, hidle, fun m hm => ?_⟩
    rw [← runSequencer_succ hstep m]
    exact hbusy (m + 1) (by omega)
  | fault r => simp [runSequencer, hstep] at hrun
  | refused r => simp [runSequencer, hstep] at hrun

theorem CompletesIn.zero_eq {s u : State} (h : CompletesIn 0 s u) : s = u ∧ s.phase = .idle := by
  obtain ⟨hrun, hidle, _⟩ := h
  cases hrun
  exact ⟨rfl, hidle⟩

/-! ## Accesses between the steps (R104) -/

/-- Where DONE and ERR are clear a status write can change WOVR alone (R95). -/
theorem State.statusWrite_of_clear {s : State} (v : Word) (hdone : s.done = false) (herr : s.err = .ok) :
    s.statusWrite v = { s with wovr := if v.getLsbD 4 then false else s.wovr } := by
  rw [s.statusWrite_eq v, hdone, herr, ite_self, ite_self]

/-- A host access at a busy block whose flags are clear changes WOVR and the log of reads alone. -/
theorem occur_access_of_busy {e : Event} {s : State} (he : e.inside = true) (hseq : e ≠ .sequencer) (hbusy : s.phase ≠ .idle)
    (hdone : s.done = false) (herr : s.err = .ok) (w : Bool) (es : List Event) (log : List (Addr × Word)) :
    ∃ w' log', occur e (s.withOutside w es log) = .next (s.withOutside w' es log') := by
  cases e with
  | read a => exact ⟨w, _, rfl⟩
  | sequencer => exact absurd rfl hseq
  | poll | reset | badAccess => cases he
  | write a v =>
    obtain ⟨t, ht⟩ := hostWrite_answers (s.withOutside w es log) a v
    suffices h : ∃ w' log', t = s.withOutside w' es log' by
      obtain ⟨w', log', rfl⟩ := h
      exact ⟨w', log', ht⟩
    cases occurs_of_occur (e := .write a v) ht with
    | dropped => exact ⟨true, log, rfl⟩
    | ignored => exact ⟨w, log, rfl⟩
    | status => exact ⟨_, log, State.statusWrite_of_clear v hdone herr⟩
    | illegal _ _ _ hidle | keyWidth _ _ _ hidle | accepted _ _ _ hidle | din _ _ hidle | key _ _ _ _ hidle | chain _ _ hidle =>
      exact absurd hidle hbusy

/-- By induction on the events: a sequencer step among them advances the run, an access leaves it where it is. -/
theorem runSteps_interleaved {es : List Event} (rest : List Event) (hinside : ∀ e ∈ es, e.inside = true) {s d : State}
    (hrun : CompletesIn (es.count .sequencer + 1) s d) (hdone : s.done = false) (herr : s.err = .ok) (w : Bool)
    (log : List (Addr × Word)) :
    ∃ w' log', runSteps (es.length + 1) (s.withOutside w (es ++ .sequencer :: rest) log) = .next (d.withOutside w' rest log') := by
  induction es generalizing s w log with
  | nil =>
    obtain ⟨_, t, hstep, hrun⟩ := hrun.first_step
    obtain ⟨rfl, _⟩ := hrun.zero_eq
    exact ⟨w, log, runSteps_sequencer_withOutside w rest log hstep 0⟩
  | cons e es ih =>
    have ih := @ih (fun e' he' => hinside e' (List.mem_cons_of_mem e he'))
    obtain ⟨hbusy, t, hstep, hrun'⟩ := hrun.first_step
    by_cases hseq : e = .sequencer
    · subst hseq
      rw [List.count_cons_self] at hrun'
      obtain ⟨ht, _⟩ := hrun'.first_step
      obtain ⟨_, _, _, _, _, _, _, _, hkeeps⟩ := sequencerStep_frame hstep
      obtain ⟨_, _, hdone', herr'⟩ := hkeeps ht
      obtain ⟨w', log', hrest⟩ := ih hrun' (hdone'.trans hdone) (herr'.trans herr) w log
      exact ⟨w', log', (runSteps_sequencer_withOutside w _ log hstep _).trans hrest⟩
    · rw [List.count_cons_of_ne hseq] at hrun
      obtain ⟨w₁, log₁, hone⟩ :=
        occur_access_of_busy (hinside e List.mem_cons_self) hseq hbusy hdone herr w (es ++ .sequencer :: rest) log
      obtain ⟨w', log', hrest⟩ := ih hrun hdone herr w₁ log₁
      exact ⟨w', log', (runSteps_cons_withOutside w _ log hone _).trans hrest⟩

/-! ## POLL (R43) -/

/-- A POLL reads STATUS before each step of the run, and a last time when it has completed. -/
theorem runSteps_poll {n : Nat} {s u : State} (hrun : CompletesIn n s u) (w : Bool) (rest : List Event) (log : List (Addr × Word)) :
    ∃ polls : List (Addr × Word), (∀ r ∈ polls, r.1 = Reg.status.addr) ∧
      runSteps (2 * n + 1) (s.withOutside w (.poll :: rest) log) =
        .next ((u.withOutside w rest (polls ++ log)).logRead Reg.status.addr) := by
  induction n generalizing s log with
  | zero =>
    obtain ⟨rfl, hidle⟩ := hrun.zero_eq
    have hpoll : occur .poll (s.withOutside w rest log) = .next ((s.withOutside w rest log).logRead Reg.status.addr) := by
      simp only [occur, State.pollStatus, (State.busy_eq_false (s.withOutside w rest log)).2 hidle]
      rfl
    exact ⟨[], by simp, runSteps_cons_withOutside w rest log hpoll 0⟩
  | succ n ih =>
    obtain ⟨hbusy, t, hstep, hrun⟩ := hrun.first_step
    let poll := (Reg.status.addr, (s.withOutside w rest log).hostRead Reg.status.addr)
    have hpoll : occur .poll (s.withOutside w rest log) =
        .next (s.withOutside w (.sequencer :: .poll :: rest) (poll :: log)) := by
      simp only [occur, State.pollStatus, (State.busy_eq_true (s.withOutside w rest log)).2 hbusy]
      rfl
    obtain ⟨polls, hpolls, hrest⟩ := ih hrun (poll :: log)
    refine ⟨polls ++ [poll], ?_, ?_⟩
    · simpa [poll, or_imp, forall_and] using hpolls
    · rw [Nat.mul_succ, runSteps_cons_withOutside _ _ _ hpoll, runSteps_sequencer_withOutside _ _ _ hstep, hrest,
        List.append_assoc, List.singleton_append]

/-- Bit 0 of STATUS is BUSY (R16). -/
theorem State.statusWord_getLsbD_zero (s : State) : s.statusWord.getLsbD 0 = s.busy := by
  unfold State.statusWord
  cases s.wovr <;> cases s.err <;> cases s.done <;> cases s.busy <;> rfl

/-! ## A busy block of the invariant completes within 30 steps (R119) -/

/-- An upper bound on the sequencer steps still to come: three stages of ten steps at most. -/
def State.stepsLeft (s : State) : Nat :=
  match s.phase with
  | .idle => 0
  | .start => 10 * (2 - s.stage.val) + 10
  | .run i => 10 * (2 - s.stage.val) + (9 - i.val)
  | .sdone => 10 * (2 - s.stage.val) + 1

theorem stepsLeft_lt {s t : State} (hbusy : s.phase ≠ .idle) (h : sequencerStep s = .next t) : t.stepsLeft < s.stepsLeft := by
  rcases sequencerStep_cases h with ⟨hp, _⟩ | ⟨stg, hp, hs, rfl⟩ | ⟨i, dir, k, r, hp, hs, hr, rfl⟩ |
    ⟨stg, hp, hs, hl, rfl⟩ | ⟨stg, hp, hs, hl, rfl⟩
  case inl => exact absurd hp hbusy
  case inr.inl => by_cases h7 : s.opl = 0x7#4 <;> simp [State.stepsLeft, hp, h7]
  case inr.inr.inl =>
    by_cases hl : i.val + 1 < (seq dir s.vl).length
    · have hval := val_succ_of_lt_seq hl
      simp only [State.stepsLeft, hp, hl, if_true, hval]
      omega
    · simp only [State.stepsLeft, hp, hl, if_false]
      omega
  case inr.inr.inr.inl =>
    have hmax := plan_length_le s
    have hval : (s.stage + 1).val = s.stage.val + 1 := Fin.val_add_one_of_lt' (by omega)
    simp only [State.stepsLeft, hp, hval]
    omega
  case inr.inr.inr.inr => simp [State.stepsLeft, hp]

theorem stepsLeft_le (s : State) : s.stepsLeft ≤ 30 := by
  unfold State.stepsLeft
  split <;> omega

theorem ControlInv.completes {s : State} (inv : ControlInv s) : ∃ n ≤ s.stepsLeft, ∃ u, CompletesIn n s u := by
  induction hm : s.stepsLeft using Nat.strong_induction_on generalizing s with
  | _ m ih =>
    by_cases hp : s.phase = .idle
    · exact ⟨0, by omega, s, (BusyRun.zero s).completes hp⟩
    · obtain ⟨t, hstep, _⟩ := inv.sequencer_moves hp
      have hlt := stepsLeft_lt hp hstep
      obtain ⟨n, hn, u, hrun⟩ := ih t.stepsLeft (by omega) (inv.sequencer hstep) rfl
      exact ⟨n + 1, by omega, u, hrun.cons hp hstep⟩

end Sys2Proof.Machine

namespace Sys2Proof

open Sys2Proof.Machine

/-- Settles O42: the accepted command's run (O39), its steps interleaved with accesses by `runSteps_interleaved`. -/
theorem interleavingDoesNotChangeResults : Obligations.InterleavingDoesNotChangeResults := by
  intro i s t es rest hidle hexec hbusy hinside hcount
  have ht := eq_accept_of_exec hidle hexec hbusy
  obtain ⟨d, hrun, _⟩ := accept_completesIn_stepCount i s
  rw [← ht] at hrun
  obtain ⟨w, log, hsteps⟩ := runSteps_interleaved rest hinside (hcount ▸ hrun) (by rw [ht]; rfl) (by rw [ht]; rfl) t.wovr t.readLog
  exact ⟨d, _, hrun.1, hsteps, rfl⟩

/-- Settles O40: the run completes within 30 steps (`ControlInv.completes`), and POLL takes two events for each and one more. -/
theorem pollEnds : Obligations.PollEnds := by
  intro s rest inv hscript
  obtain ⟨n, hn, u, hrun⟩ := inv.completes
  obtain ⟨polls, _, hsteps⟩ := runSteps_poll hrun s.wovr rest s.readLog
  have hs : s = s.withOutside s.wovr (.poll :: rest) s.readLog := by rw [← hscript]; rfl
  rw [← hs] at hsteps
  have hle := stepsLeft_le s
  obtain ⟨_, hidle, _⟩ := hrun
  exact ⟨2 * n + 1, by omega, _, hsteps, rfl, hidle, rfl, (State.statusWord_getLsbD_zero _).trans ((State.busy_eq_false _).2 hidle)⟩

end Sys2Proof
end

section
/-! PROOFS. The host's chain traversal on the machine (rules R43, R89): one block's lines, then the blocks in order, then the whole script. -/

namespace Sys2Proof.Machine

/-! ## The chain as a pass over the blocks (R89) -/

/-- The results of a pass over the blocks, where `out` gives a block's result and `next` the chain value it leaves. -/
def chainOutputs (out next : Word → Word → Word) : Word → List Word → List Word
  | _, [] => []
  | iv, b :: bs => out iv b :: chainOutputs out next (next iv b) bs

section Chaining

variable (v : Variant) (k iv : Word) (bs : List Word)

theorem cbcEncrypt_eq_chainOutputs :
    cbcEncrypt v k iv bs = chainOutputs (fun c b => encN v (b ^^^ c) k) (fun c b => encN v (b ^^^ c) k) iv bs := by
  induction bs generalizing iv with
  | nil => rfl
  | cons b bs ih => rw [cbcEncrypt_cons, ih, chainOutputs]

theorem cbcDecrypt_eq_chainOutputs :
    cbcDecrypt v k iv bs = chainOutputs (fun c b => decN v b k ^^^ maskN v c) (fun _ b => maskN v b) iv bs := by
  induction bs generalizing iv with
  | nil => rfl
  | cons b bs ih => rw [cbcDecrypt_cons, ih, chainOutputs, maskN_xor, maskN_decN]

theorem cbcEncrypt_getLastD : (cbcEncrypt v k iv bs).getLastD iv = bs.foldl (fun c b => encN v (b ^^^ c) k) iv := by
  induction bs generalizing iv with
  | nil => rfl
  | cons b bs ih => rw [cbcEncrypt_cons, List.getLastD_cons, ih, List.foldl_cons]

end Chaining

/-! ## KEY holding one subkey (R89) -/

theorem keyLow_setWidth (k : Word) : keyLow (BitVec.setWidth 48 k) = k := by
  apply BitVec.eq_of_getLsbD_eq
  intro i hi
  simp [keyLow, hi]
  grind

theorem setWidth_extractLsb' (k : Word) : (BitVec.setWidth 48 k).extractLsb' 16 32 = 0#32 := by
  apply BitVec.eq_of_getLsbD_eq
  intro i hi
  simp [hi]

theorem keyTooWide_k16_setWidth (k : Word) : keyTooWide .k16 (BitVec.setWidth 48 k) = false :=
  keyTooWide_k16_eq_false (setWidth_extractLsb' k)

/-! ## Stretches of a script -/

/-- From `s`, the events `es` run to an idle block that has kept KEY, has added `outs` to the reads of DOUT, and has `c` in CHAIN. -/
def Traverses (es : List Event) (s : State) (outs : List Word) (c : Word) : Prop :=
  ∀ rest, ∃ (n : Nat) (u : State), runSteps n { s with script := es ++ rest } = .next { u with script := rest } ∧
    u.phase = .idle ∧ u.key = s.key ∧ u.doutReads = s.doutReads ++ outs ∧ u.chain = c

theorem Traverses.nil {s : State} (hidle : s.phase = .idle) : Traverses [] s [] s.chain :=
  fun _ => ⟨0, s, rfl, hidle, rfl, by simp, rfl⟩

theorem Traverses.append {es fs : List Event} {s : State} {outs outs' : List Word} {c c' : Word} (h : Traverses es s outs c)
    (h' : ∀ u : State, u.phase = .idle → u.key = s.key → u.chain = c → Traverses fs u outs' c') :
    Traverses (es ++ fs) s (outs ++ outs') c' := by
  intro rest
  obtain ⟨n, u, hrun, hidle, hkey, houts, hchain⟩ := h (fs ++ rest)
  obtain ⟨n', u', hrun', hidle', hkey', houts', hchain'⟩ := h' u hidle hkey hchain rest
  refine ⟨n + n', u', ?_, hidle', hkey'.trans hkey, ?_, hchain'⟩
  · rw [List.append_assoc, runSteps_add n n' _ _ hrun, hrun']
  · rw [houts', houts, List.append_assoc]

/-- A pass over the blocks, each traversed by its lines. -/
theorem traverses_blocks {i : Instr} {k : Key} {out next : Word → Word → Word}
    (hblock : ∀ (s : State) (b : Word), s.phase = .idle → s.key = k →
      Traverses (hostScript (cbcBlockLines i b)) s [out s.chain b] (next s.chain b))
    (bs : List Word) {s : State} (hidle : s.phase = .idle) (hkey : s.key = k) :
    Traverses (hostScript (bs.flatMap (cbcBlockLines i))) s (chainOutputs out next s.chain bs) (bs.foldl next s.chain) := by
  induction bs generalizing s with
  | nil => exact .nil hidle
  | cons b bs ih =>
    rw [List.flatMap_cons, hostScript, List.flatMap_append]
    refine (hblock s b hidle hkey).append fun u hu hukey huchain => ?_
    rw [List.foldl_cons, ← huchain]
    exact ih hu (hukey.trans hkey)

/-! ## One block (R43, R89) -/

theorem doutReads_of_poll {s u : State} {x y : Word} {polls : List (Addr × Word)} (hpolls : ∀ r ∈ polls, r.1 = Reg.status.addr)
    (hlog : u.readLog = (Reg.dout.addr, x) :: (Reg.status.addr, y) :: (polls ++ s.readLog)) :
    u.doutReads = s.doutReads ++ [x] := by
  have hnone : polls.filter (fun r => r.1 == Reg.dout.addr) = [] := by
    refine List.filter_eq_nil_iff.2 fun r hr => ?_
    rw [hpolls r hr]
    decide
  have hne : (Reg.status.addr == Reg.dout.addr) = false := rfl
  simp [State.doutReads, hlog, hnone, hne]

theorem accept_withOutside (i : Instr) (s : State) (w : Bool) (es : List Event) (log : List (Addr × Word)) :
    (s.withOutside w es log).accept (opOf i) (cmOf i) i.variant (blockOf i (s.withOutside w es log)) =
      (s.accept (opOf i) (cmOf i) i.variant (blockOf i s)).withOutside w es log := by
  cases i <;> rfl

/-- The CMD write of a command that fits its key, at an idle block (R96). -/
theorem step_of_accepted {i : Instr} {s : State} (w : Bool) (es : List Event) (log : List (Addr × Word)) (hidle : s.phase = .idle)
    (hkey : keyTooWide (bitsOf i) s.key = false) :
    step (s.withOutside w (.write Reg.cmd.addr (encode i) :: es) log) =
      .next ((s.accept (opOf i) (cmOf i) i.variant (blockOf i s)).withOutside w es log) := by
  have hexec : step (s.withOutside w (.write Reg.cmd.addr (encode i) :: es) log) = exec i (s.withOutside w es log) :=
    step_of_command rfl (decode_encode i)
  rw [hexec, ← accept_withOutside]
  exact exec_of_keyFits hidle hkey

/-- Write DIN, write CMD, poll, read DOUT: what the command's run leaves in DOUT and CHAIN. -/
theorem traverses_cbcBlockLines {i : Instr} {s d : State} {b : Word} {n : Nat} (hidle : s.phase = .idle)
    (hkey : keyTooWide (bitsOf i) s.key = false)
    (hrun : CompletesIn n (State.accept { s with din := b } (opOf i) (cmOf i) i.variant (blockOf i { s with din := b })) d)
    (hd : d.key = s.key) : Traverses (hostScript (cbcBlockLines i b)) s [d.dout] d.chain := by
  intro rest
  let s₁ : State := { s with din := b }
  let s₂ := s₁.accept (opOf i) (cmOf i) i.variant (blockOf i s₁)
  let afterDin : List Event := .write Reg.cmd.addr (encode i) :: .poll :: .read Reg.dout.addr :: rest
  obtain ⟨polls, hpolls, hpoll⟩ := runSteps_poll hrun s.wovr (.read Reg.dout.addr :: rest) s.readLog
  let polled := (d.withOutside s.wovr rest (polls ++ s.readLog)).logRead Reg.status.addr
  have hcmd : step { s₁ with script := afterDin } =
      .next (s₂.withOutside s.wovr (.poll :: .read Reg.dout.addr :: rest) s.readLog) :=
    step_of_accepted (s := s₁) s.wovr _ s.readLog hidle hkey
  obtain ⟨_, hdidle, _⟩ := hrun
  refine ⟨2 * n + 1 + 1 + 1 + 1, polled.logRead Reg.dout.addr, ?_, hdidle, hd, doutReads_of_poll hpolls rfl, rfl⟩
  calc runSteps (2 * n + 1 + 1 + 1 + 1) { s with script := .write Reg.din.addr b :: afterDin }
      = runSteps (2 * n + 1 + 1 + 1) { s₁ with script := afterDin } := runSteps_write s hidle (occur_write_din _ b) _
    _ = runSteps (2 * n + 1 + 1) (s₂.withOutside s.wovr (.poll :: .read Reg.dout.addr :: rest) s.readLog) := runSteps_succ hcmd _
    _ = runSteps 1 { polled with script := .read Reg.dout.addr :: rest } := runSteps_add (2 * n + 1) 1 _ _ hpoll
    _ = .next (polled.logRead Reg.dout.addr) := rfl

section Commands

variable {v : Variant} {k b : Word} {s : State} (hidle : s.phase = .idle) (hkey : s.key = BitVec.setWidth 48 k)

include hidle hkey

theorem traverses_cbcenc :
    Traverses (hostScript (cbcBlockLines (.cbcenc v) b)) s [encN v (b ^^^ s.chain) k] (encN v (b ^^^ s.chain) k) := by
  have hplan : plan 0x5#4 0b00#2 s.key = [⟨some .encrypt, k⟩] := by rw [← keyLow_setWidth k, ← hkey]; rfl
  have hfits : keyTooWide .k16 s.key = false := hkey ▸ keyTooWide_k16_setWidth k
  have hrun := accept_cbcenc_completesIn (s := { s with din := b }) (v := v) (b ^^^ s.chain) hplan
  exact traverses_cbcBlockLines (i := .cbcenc v) hidle hfits hrun rfl

theorem traverses_cbcdec :
    Traverses (hostScript (cbcBlockLines (.cbcdec v) b)) s [decN v b k ^^^ maskN v s.chain] (maskN v b) := by
  have hplan : plan 0x6#4 0b00#2 s.key = [⟨some .decrypt, k⟩] := by rw [← keyLow_setWidth k, ← hkey]; rfl
  have hfits : keyTooWide .k16 s.key = false := hkey ▸ keyTooWide_k16_setWidth k
  have hrun := accept_cbcdec_completesIn (s := { s with din := b }) (v := v) hplan
  exact traverses_cbcBlockLines (i := .cbcdec v) hidle hfits hrun rfl

end Commands

/-! ## The whole script -/

/-- KEY and CHAIN written, then the blocks. -/
theorem runSteps_cbcTraversal {i : Instr} {k iv : Word} {bs outs : List Word} {c : Word} {s : State} (hidle : s.phase = .idle)
    (hlog : s.readLog = []) (hscript : s.script = cbcTraversal i k iv bs)
    (hblocks : Traverses (hostScript (bs.flatMap (cbcBlockLines i))) { s with key := BitVec.setWidth 48 k, chain := iv } outs c) :
    ∃ n u, runSteps n s = .next u ∧ u.script = [] ∧ u.phase = .idle ∧ u.doutReads = outs ∧ u.chain = c := by
  obtain ⟨n, u, hrun, huidle, _, houts, hchain⟩ := hblocks []
  rw [List.append_nil] at hrun
  let blocks := hostScript (bs.flatMap (cbcBlockLines i))
  let s₁ : State := { s with key := BitVec.setWidth 48 k }
  have hs : s = { s with script := HostLine.events (.wrkey (BitVec.setWidth 48 k)) ++ .write Reg.chain.addr iv :: blocks } := by
    change s = { s with script := cbcTraversal i k iv bs }
    rw [← hscript]
  have hnone : s.doutReads = [] := by simp [State.doutReads, hlog]
  refine ⟨3 + (n + 1), { u with script := [] }, ?_, rfl, huidle, ?_, hchain⟩
  · calc runSteps (3 + (n + 1)) s
        = runSteps (n + 1) { s₁ with script := .write Reg.chain.addr iv :: blocks } := by
          rw [hs]
          exact runSteps_add 3 (n + 1) _ _ (runSteps_wrkey s _ _ hidle)
      _ = runSteps n { s₁ with chain := iv, script := blocks } := runSteps_write s₁ hidle (occur_write_chain _ iv) n
      _ = .next { u with script := [] } := hrun
  · calc u.doutReads = s.doutReads ++ outs := houts
      _ = outs := by rw [hnone, List.nil_append]

end Sys2Proof.Machine

namespace Sys2Proof

open Sys2Proof.Machine

/-- Settles O35: each block's lines read back its result, so the script's blocks are a pass of the chain. -/
theorem cbcTraversalComputesCbc : Obligations.CbcTraversalComputesCbc := by
  intro v k iv bs s hidle hlog
  refine ⟨fun hscript => ?_, fun hscript => ?_⟩
  · rw [cbcEncrypt_getLastD, cbcEncrypt_eq_chainOutputs]
    exact runSteps_cbcTraversal hidle hlog hscript (traverses_blocks (fun _ _ => traverses_cbcenc) bs hidle rfl)
  · rw [cbcDecrypt_eq_chainOutputs]
    exact runSteps_cbcTraversal hidle hlog hscript (traverses_blocks (fun _ _ => traverses_cbcdec) bs hidle rfl)

end Sys2Proof
end
